-- ==== Sys2Proof/Word.lean ====
section
/-! DEFINITION. The word types of the unit (00_scope.md rules R9, R10, R15). -/

namespace Sys2Proof

/-- A register, and a command word: 32 bits (R9, R21, R70). -/
abbrev Word := BitVec 32

/-- One channel of a canonical colour: 16 bits (R15). -/
abbrev Channel := BitVec 16

/-- One byte of a pixel or of an ETC1 block (R9, R57, R58). -/
abbrev Byte := BitVec 8

/-- The eight bytes of an ETC1 block, byte 0 lowest (R9, R31). -/
abbrev Block := BitVec 64

end Sys2Proof
end

