-- ==== Sys2Proof/Syntax.lean ====
section
/-! DEFINITION. The commands of the unit (30_encoding.md rules R70 to R75, R81), the fields of a
raw command word, and the three ways a command word can be wrong (60_exceptions.md rule R210). -/

namespace Sys2Proof

/-- The six packed pixel formats (R14, R75). -/
inductive Fmt where
  /-- Gray+Alpha, 16 bits. -/
  | ga88
  /-- Red-only, 8 bits. -/
  | r8
  /-- RGB 5-6-5, 16 bits. -/
  | rgb565
  /-- RGBA 4-4-4-4, 16 bits. -/
  | rgba4444
  /-- RGBA 5-5-5-1, 16 bits. -/
  | rgba5551
  /-- BGRA 8-8-8-8, 32 bits. -/
  | bgra8888
  deriving DecidableEq, Repr

/-- The instructions of spec/opcode_table.json, one constructor a row (R81). Format operands are
formats and local coordinates are 2-bit numbers, so every term is a legal command. -/
inductive Instr where
  /-- NOP (R200). -/
  | nop
  /-- DEC.GA88 (R101). -/
  | decGa88
  /-- DEC.R8 (R102). -/
  | decR8
  /-- DEC.RGB565 (R103). -/
  | decRgb565
  /-- DEC.RGBA4444 (R104). -/
  | decRgba4444
  /-- DEC.RGBA5551 (R105). -/
  | decRgba5551
  /-- DEC.BGRA8888 (R106). -/
  | decBgra8888
  /-- ENC.GA88 (R134). -/
  | encGa88
  /-- ENC.R8 (R135). -/
  | encR8
  /-- ENC.RGB565 (R136). -/
  | encRgb565
  /-- ENC.RGBA4444 (R137). -/
  | encRgba4444
  /-- ENC.RGBA5551 (R138). -/
  | encRgba5551
  /-- ENC.BGRA8888 (R139). -/
  | encBgra8888
  /-- CONV s, d: source format, destination format (R140). -/
  | conv (s d : Fmt)
  /-- ZERO d (R145). -/
  | zero (d : Fmt)
  /-- ETC1 lx, ly: local column, local row (R184). -/
  | etc1 (lx ly : BitVec 2)
  deriving DecidableEq, Repr

/-- A raw command word cut into the fields of rule R22, before any check. -/
structure CmdFields where
  /-- OP, bits [3:0]. -/
  op : BitVec 4
  /-- FMT_S, bits [7:4]. -/
  fmtS : BitVec 4
  /-- FMT_D, bits [11:8]. -/
  fmtD : BitVec 4
  /-- X, bits [13:12]. -/
  x : BitVec 2
  /-- Y, bits [15:14]. -/
  y : BitVec 2
  /-- RSVD, bits [31:16]. -/
  rsvd : BitVec 16
  deriving DecidableEq, Repr

/-- Why a command word is no command (R210). The unit goes on after each (R214). -/
inductive CmdError where
  /-- OP is 0x6 to 0xF. -/
  | illegalOp
  /-- A reserved bit, or a field the operation does not use, is nonzero. -/
  | rsvdField
  /-- A format field the operation uses holds 6 to 15. -/
  | illegalFmt
  deriving DecidableEq, Repr

end Sys2Proof
end

