-- ==== Sys2Proof/WellFormed.lean ====
section
/-! DEFINITION. Which raw command words are commands: the field table of 30_encoding.md rules R72,
R74, R75 read as three checks. Decode.lean follows the procedure of rule R80 instead; that the
two agree is a statement of its own. -/

namespace Sys2Proof

namespace CmdFields

/-- OP names an operation (R74, R76). -/
def opLegal (f : CmdFields) : Bool := f.op.toNat ≤ 5

/-- Every field marked 0 in the row of rule R72, and RSVD, is zero. -/
def unusedClear (f : CmdFields) : Bool :=
  f.rsvd == 0 &&
    match f.op.toNat with
    | 0 => f.fmtS == 0 && f.fmtD == 0 && f.x == 0 && f.y == 0
    | 1 => f.fmtD == 0 && f.x == 0 && f.y == 0
    | 2 => f.fmtS == 0 && f.x == 0 && f.y == 0
    | 3 => f.x == 0 && f.y == 0
    | 4 => f.fmtS == 0 && f.x == 0 && f.y == 0
    | 5 => f.fmtS == 0 && f.fmtD == 0
    | _ => true

/-- Every format field marked used in the row of rule R72 holds a code of rule R75. -/
def formatsLegal (f : CmdFields) : Bool :=
  match f.op.toNat with
  | 1 => f.fmtS.toNat ≤ 5
  | 2 => f.fmtD.toNat ≤ 5
  | 3 => f.fmtS.toNat ≤ 5 && f.fmtD.toNat ≤ 5
  | 4 => f.fmtD.toNat ≤ 5
  | _ => true

/-- The word is one of the legal encodings (R78, R81). -/
def wellFormed (f : CmdFields) : Bool := f.opLegal && f.unusedClear && f.formatsLegal

end CmdFields

end Sys2Proof
end

