-- ==== Sys2Proof/Decode.lean ====
section
/-! DEFINITION. From a command word to a command, as 30_encoding.md rule R80 checks it, total and
rejecting by name; and back, as rule R81 encodes it. -/

namespace Sys2Proof

/-- The fields of a command word (R22, R71): unsigned, never scaled. -/
def CmdFields.ofWord (v : Word) : CmdFields where
  op := v.extractLsb 3 0
  fmtS := v.extractLsb 7 4
  fmtD := v.extractLsb 11 8
  x := v.extractLsb 13 12
  y := v.extractLsb 15 14
  rsvd := v.extractLsb 31 16

/-- The format of a code (R75); 6 to 15 are reserved (R77). -/
def Fmt.ofCode? (c : Nat) : Option Fmt :=
  match c with
  | 0 => some .ga88
  | 1 => some .r8
  | 2 => some .rgb565
  | 3 => some .rgba4444
  | 4 => some .rgba5551
  | 5 => some .bgra8888
  | _ => none

/-- The code of a format (R75). -/
def Fmt.code : Fmt → Nat
  | .ga88 => 0
  | .r8 => 1
  | .rgb565 => 2
  | .rgba4444 => 3
  | .rgba5551 => 4
  | .bgra8888 => 5

/-- DEC.<f> (R73). -/
def Instr.decOf : Fmt → Instr
  | .ga88 => .decGa88
  | .r8 => .decR8
  | .rgb565 => .decRgb565
  | .rgba4444 => .decRgba4444
  | .rgba5551 => .decRgba5551
  | .bgra8888 => .decBgra8888

/-- ENC.<f> (R73). -/
def Instr.encOf : Fmt → Instr
  | .ga88 => .encGa88
  | .r8 => .encR8
  | .rgb565 => .encRgb565
  | .rgba4444 => .encRgba4444
  | .rgba5551 => .encRgba5551
  | .bgra8888 => .encBgra8888

/-- OP reads FMT_S: DEC and CONV (R72, R80). -/
def usesS (op : Nat) : Bool := op == 1 || op == 3

/-- OP reads FMT_D: ENC, CONV and ZERO (R72, R80). -/
def usesD (op : Nat) : Bool := op == 2 || op == 3 || op == 4

/-- OP reads X and Y: ETC1 (R72, R80). -/
def usesXY (op : Nat) : Bool := op == 5

/-- The second check of rule R80: a reserved bit or an unused field is nonzero. -/
def CmdFields.rsvdNonzero (f : CmdFields) : Bool :=
  f.rsvd != 0
    || (!usesS f.op.toNat && f.fmtS != 0)
    || (!usesD f.op.toNat && f.fmtD != 0)
    || (!usesXY f.op.toNat && (f.x != 0 || f.y != 0))

/-- The third check of rule R80 together with its case on `op`: the command, or no command where a
format field the operation uses holds a reserved code. -/
def CmdFields.select (f : CmdFields) : Option Instr :=
  match f.op.toNat with
  | 0 => some .nop
  | 1 => (Fmt.ofCode? f.fmtS.toNat).map Instr.decOf
  | 2 => (Fmt.ofCode? f.fmtD.toNat).map Instr.encOf
  | 3 =>
    match Fmt.ofCode? f.fmtS.toNat, Fmt.ofCode? f.fmtD.toNat with
    | some s, some d => some (.conv s d)
    | _, _ => none
  | 4 => (Fmt.ofCode? f.fmtD.toNat).map Instr.zero
  | 5 => some (.etc1 f.x f.y)
  | _ => none

/-- The checks of rule R80 in its order: ILLEGAL_OP, then RSVD_FIELD, then ILLEGAL_FMT (R213). -/
def CmdFields.decode (f : CmdFields) : Except CmdError Instr :=
  if 0x6 ≤ f.op.toNat then .error .illegalOp
  else if f.rsvdNonzero then .error .rsvdField
  else
    match f.select with
    | some i => .ok i
    | none => .error .illegalFmt

/-- The command a word names, or the one error it reports (R78, R80). -/
def decode (v : Word) : Except CmdError Instr := (CmdFields.ofWord v).decode

/-- The word of a command (R81). -/
def encode : Instr → Word
  | .nop => 0x00000000
  | .decGa88 => 0x00000001
  | .decR8 => 0x00000011
  | .decRgb565 => 0x00000021
  | .decRgba4444 => 0x00000031
  | .decRgba5551 => 0x00000041
  | .decBgra8888 => 0x00000051
  | .encGa88 => 0x00000002
  | .encR8 => 0x00000102
  | .encRgb565 => 0x00000202
  | .encRgba4444 => 0x00000302
  | .encRgba5551 => 0x00000402
  | .encBgra8888 => 0x00000502
  | .conv s d => 0x00000003 ||| BitVec.ofNat 32 s.code <<< 4 ||| BitVec.ofNat 32 d.code <<< 8
  | .zero d => 0x00000004 ||| BitVec.ofNat 32 d.code <<< 8
  | .etc1 lx ly => 0x00000005 ||| lx.setWidth 32 <<< 12 ||| ly.setWidth 32 <<< 14

/-- Every format, in code order (R75). -/
def Fmt.all : List Fmt := [.ga88, .r8, .rgb565, .rgba4444, .rgba5551, .bgra8888]

/-- Every value of a local coordinate (R71). -/
def allCoords : List (BitVec 2) := [0, 1, 2, 3]

/-- Every command: 1 + 6 + 6 + 36 + 6 + 16 of them (R79). -/
def Instr.all : List Instr :=
  .nop :: (Fmt.all.map Instr.decOf ++ Fmt.all.map Instr.encOf ++
    Fmt.all.flatMap (fun s => Fmt.all.map (Instr.conv s)) ++ Fmt.all.map Instr.zero ++
    allCoords.flatMap (fun lx => allCoords.map (Instr.etc1 lx)))

/-- The table word of `nbits` bits: a command word is one 32-bit word whose bit 0 is its least
significant bit (R10, R70), and the bits the table does not give are 0. -/
def tableWord (nbits w : Nat) : Word := BitVec.ofNat 32 (w % 2 ^ nbits)

/-- The instruction that the decoder reads from an opcode-table word. -/
def decodeTableWord (nbits w : Nat) : Option Instr :=
  match decode (tableWord nbits w) with
  | .ok i => some i
  | .error _ => none

end Sys2Proof
end

