-- ==== Sys2Proof/Config.lean ====
section
/-! DEFINITION. What an implementation of the unit fixes (00_scope.md rules R1, R8;
70_reset_and_hazards.md rule R241): the three computation parameters, each with the spec's
default, and the base address of the register window, which has none. -/

namespace Sys2Proof

/-- How a 5-bit or 6-bit field is scaled to 16 bits (R8, R100; 92_eei_decisions.md D17). -/
inductive ScaleMode where
  /-- `(f * 0xFFFF) / W`, the default. -/
  | mulDiv
  /-- `f * (0xFFFF / W)`. -/
  | quotFirst
  deriving DecidableEq, Repr

/-- Which bits of canonical alpha form the alpha field on encode (R8, R131; D19). -/
inductive EncAlphaBits where
  /-- `A[w-1:0]`, the default. -/
  | low
  /-- `A[15:16-w]`. -/
  | high
  deriving DecidableEq, Repr

/-- The byte-to-channel map of the second sub-block in differential mode (R8, R176; D28). -/
inductive Etc1DiffMap where
  /-- R from byte 0, G from byte 2, B from byte 1: the source's text, the default. -/
  | doc
  /-- R, G, B from bytes 0, 1, 2. -/
  | standard
  deriving DecidableEq, Repr

/-- The three computation parameters of rule R8: arguments of the whole run (R241). -/
structure Params where
  scaleMode : ScaleMode
  encAlphaBits : EncAlphaBits
  etc1DiffMap : Etc1DiffMap
  deriving DecidableEq, Repr

/-- The default of each parameter (R8). -/
def Params.default : Params := ⟨.mulDiv, .low, .doc⟩

namespace Config

/-- The unit's identity is its name and nothing else (R1, R2): there is no part number and no
identification register. -/
def unitName : String := "glu-pxc"

/-- Which 64-byte block of the host's address space the window occupies (R51; D2). The spec
leaves the base OPEN, so this constant has no value that a proof can see (assumption log 4). -/
opaque unitBlock : Nat

/-- `UNIT_BASE`: any 64-byte-aligned host address (R51). -/
def unitBase : Nat := 64 * unitBlock

/-- The colour that a query outside a block-compressed image answers, as R, G, B, A: "the format's
zero/transparent color" (R63). The spec gives the codec no raw zero value and ZERO no code for it, so
no rule says which colour this is, and it is a free value (assumption log 20). -/
opaque blockZeroColour : Channel × Channel × Channel × Channel

end Config

end Sys2Proof
end

