-- ==== Sys2Proof/Machine/State.lean ====
section
/-! DEFINITION. What the unit holds (10_state.md), what the host may do to it (20_memory.md), and
the reasons a step can stop. -/

namespace Sys2Proof.Machine

/-- The eleven registers of the window (R21). -/
inductive Reg where
  | cmd
  | status
  | rawIn
  | rawOut
  | canInRg
  | canInBa
  | canOutRg
  | canOutBa
  | blkIn0
  | blkIn1
  | rgb8Out
  deriving DecidableEq, Repr

/-- One 32-bit slot of the window: a register, or one of the reserved slots 0x2C to 0x3C (R21, R51). -/
inductive Slot where
  | reg (r : Reg)
  | reserved
  deriving DecidableEq, Repr

/-- What reaches the unit from outside, one event a step (R17, R240): accesses by byte offset in the
window and by size in bytes, in the order the host issues them (R65), and reset between them (R243). -/
inductive HostEvent where
  /-- `MemRead(off, size)` (R53). -/
  | read (off size : Nat)
  /-- `MemWrite(off, size, v)` (R54). The data of a size other than 4 is not kept: R52 gives such an
  access no meaning (assumption log 6). -/
  | write (off size : Nat) (v : Word)
  /-- An access, read or write, that starts below the window and runs into it: it has no offset, and R52
  gives it no meaning. -/
  | straddlingAccess
  /-- The platform asserts reset (R240). -/
  | reset
  /-- A host access in progress while reset is asserted (R243). -/
  | accessDuringReset
  /-- An access of a second host to the same unit (R222). -/
  | secondHostAccess
  deriving DecidableEq, Repr

/-- STATUS by its fields (R23). The other bits are reserved and read 0 (assumption log 8). -/
structure Status where
  /-- DONE, bit 0: the most recent command completed without error (R24). -/
  done : Bool
  /-- ERR, bit 1: sticky, some command failed since the last clear (R25). -/
  err : Bool
  /-- ECODE, bits [7:4]: the most recent failure, `none` being code 0, "no error since reset or the
  last clear" (R25, R210). -/
  ecode : Option CmdError
  deriving DecidableEq, Repr

/-- The state of the unit: the eleven registers of R21 and nothing else (R20, R35). The last three
fields are the model's own: the arguments of the whole run (R8, R241; assumption log 3), the events
still to come (assumption log 1) and what the host has read (assumption log 5). -/
structure State where
  /-- CMD, offset 0x00 (R22). -/
  cmd : Word
  /-- STATUS, offset 0x04 (R23). -/
  status : Status
  /-- RAW_IN, offset 0x08 (R27). -/
  rawIn : Word
  /-- RAW_OUT, offset 0x0C (R28). -/
  rawOut : Word
  /-- CAN_IN_RG, offset 0x10 (R29). -/
  canInRg : Word
  /-- CAN_IN_BA, offset 0x14 (R29). -/
  canInBa : Word
  /-- CAN_OUT_RG, offset 0x18 (R30). -/
  canOutRg : Word
  /-- CAN_OUT_BA, offset 0x1C (R30). -/
  canOutBa : Word
  /-- BLK_IN0, offset 0x20 (R31). -/
  blkIn0 : Word
  /-- BLK_IN1, offset 0x24 (R31). -/
  blkIn1 : Word
  /-- RGB8_OUT, offset 0x28 (R32). -/
  rgb8Out : Word
  /-- SCALE_MODE, ENC_ALPHA_BITS and ETC1_DIFF_MAP. No step and no reset writes them. -/
  params : Params
  /-- The events not yet taken, oldest first. -/
  pending : List HostEvent
  /-- The values that host reads have returned, newest first. -/
  hostReads : List Word
  deriving DecidableEq, Repr

/-- Why the unit stops with a fault: never. A command error is a next state (R211), an error never
stops the unit and there is no halt state (R214), and no data value causes an error (R215). A type
without constructors says so; it is safe, since nothing can be claimed of a fault (assumption log 10). -/
inductive Fault where
  deriving DecidableEq, Repr

/-- Why a step has no meaning. -/
inductive Refusal where
  /-- Raised by `exec` for an instruction without a meaning; none is left. Safe. -/
  | notModelled (mnemonic : String)
  /-- Raised by a host access that is not an aligned 32-bit access inside the window, one that runs into
  the window from below among them: "a model refuses it" (R52; U8). Safe: nothing is provable of a run that makes one. -/
  | unsupportedAccess
  /-- Raised by a host access concurrent with reset: "a model does not admit" it (R243; U9). Safe. -/
  | accessDuringReset
  /-- Raised by an access of a second host: "a model treats a configuration with two hosts on one
  instance as unsupported and refuses it" (R222; U10). Safe. -/
  | secondHost
  deriving DecidableEq, Repr

/-- STATUS right after reset: DONE = 0, ERR = 0, ECODE = 0 (R240). -/
def Status.cleared : Status := ⟨false, false, none⟩

namespace State

/-- The unit right after reset, with the run's parameters `p`: every register 0x00000000 (R21, R240). -/
def resetWith (p : Params) : State where
  cmd := 0
  status := .cleared
  rawIn := 0
  rawOut := 0
  canInRg := 0
  canInBa := 0
  canOutRg := 0
  canOutBa := 0
  blkIn0 := 0
  blkIn1 := 0
  rgb8Out := 0
  params := p
  pending := []
  hostReads := []

/-- The unit right after reset under the spec's default parameters (R8, R240). -/
def reset : State := resetWith Params.default

/-- `x[CMD] <- v`. -/
def setCmd (v : Word) (s : State) : State := { s with cmd := v }

/-- STATUS's fields become `st`. -/
def setStatus (st : Status) (s : State) : State := { s with status := st }

/-- `x[RAW_IN] <- v`. -/
def setRawIn (v : Word) (s : State) : State := { s with rawIn := v }

/-- `x[RAW_OUT] <- v`. -/
def setRawOut (v : Word) (s : State) : State := { s with rawOut := v }

/-- `x[CAN_IN_RG] <- v`. -/
def setCanInRg (v : Word) (s : State) : State := { s with canInRg := v }

/-- `x[CAN_IN_BA] <- v`. -/
def setCanInBa (v : Word) (s : State) : State := { s with canInBa := v }

/-- `x[CAN_OUT_RG] <- rg; x[CAN_OUT_BA] <- ba`. -/
def setCanOut (rg ba : Word) (s : State) : State := { s with canOutRg := rg, canOutBa := ba }

/-- `x[BLK_IN0] <- v`. -/
def setBlkIn0 (v : Word) (s : State) : State := { s with blkIn0 := v }

/-- `x[BLK_IN1] <- v`. -/
def setBlkIn1 (v : Word) (s : State) : State := { s with blkIn1 := v }

/-- `x[RGB8_OUT] <- v`. -/
def setRgb8Out (v : Word) (s : State) : State := { s with rgb8Out := v }

/-- The events still to come become `es`. -/
def setPending (es : List HostEvent) (s : State) : State := { s with pending := es }

/-- The host receives the value `v` of a read. -/
def pushRead (v : Word) (s : State) : State := { s with hostReads := v :: s.hostReads }

end State

end Sys2Proof.Machine
end

