-- ==== Sys2Proof/Machine/Flags.lean ====
section
/-! DEFINITION. Every computation of STATUS.DONE, ERR and ECODE, the unit's only flags (R23 to R26). -/

namespace Sys2Proof.Machine

/-- The ECODE of an error (R210). -/
def ecodeOf : Option CmdError → BitVec 4
  | none => 0
  | some .illegalOp => 1
  | some .rsvdField => 2
  | some .illegalFmt => 3

/-- STATUS as a host read sees it: DONE [0], ERR [1], ECODE [7:4], reserved bits 0 (R23). -/
def Status.word (st : Status) : Word :=
  (0 : BitVec 24) ++ ecodeOf st.ecode ++ (0 : BitVec 2) ++ BitVec.ofBool st.err ++ BitVec.ofBool st.done

/-- A command completed: DONE <- 1, ERR and ECODE unchanged (R24, R25, R80). -/
def Status.complete (st : Status) : Status := { st with done := true }

/-- A command failed: DONE <- 0, ERR <- 1, ECODE <- its code (R211). -/
def Status.fail (e : CmdError) (_ : Status) : Status := ⟨false, true, some e⟩

/-- A STATUS write: bit 1 clears ERR and ECODE; DONE is not changed and the other bits are ignored
(R201). -/
def Status.hostWrite (v : Word) (st : Status) : Status :=
  if v[1] then { st with err := false, ecode := none } else st

end Sys2Proof.Machine
end

