-- ==== Sys2Proof/Machine/Operands.lean ====
section
/-! DEFINITION. How the commands read their operands and lay out their results: bit fields (R10),
the shorthands of rule R13, canonical colours in the CAN registers (R29, R30), the block in the
BLK_IN registers (R31), and the byte lanes of RAW and BLK_IN (R57, R58). -/

namespace Sys2Proof

/-- The number of bits of RAW a format uses (R75). -/
def Fmt.width : Fmt → Nat
  | .ga88 => 16
  | .r8 => 8
  | .rgb565 => 16
  | .rgba4444 => 16
  | .rgba5551 => 16
  | .bgra8888 => 32

/-- The bytes of one stored pixel (R75). -/
def Fmt.bytesPerPixel : Fmt → Nat
  | .ga88 => 2
  | .r8 => 1
  | .rgb565 => 2
  | .rgba4444 => 2
  | .rgba5551 => 2
  | .bgra8888 => 4

end Sys2Proof

namespace Sys2Proof.Machine

/-- `v[hi:lo]` as an unsigned integer (R10). -/
def bits {n : Nat} (v : BitVec n) (hi lo : Nat) : Nat := (v.extractLsb hi lo).toNat

/-- The top `w` bits of a 16-bit value: `c[15:16-w]`. -/
def topBits (w : Nat) (c : Channel) : BitVec w := c.extractLsb' (16 - w) w

/-- The full-scale value of a `w`-bit field (R13). -/
def fullScale (w : Nat) : Nat := 2 ^ w - 1

/-- `rep8`: an 8-bit value expanded to 16 bits (R13). -/
def rep8 (v : Nat) : Nat := v * 0x101

/-- `rep4`: a 4-bit value expanded to 16 bits (R13). -/
def rep4 (v : Nat) : Nat := v * 0x1111

/-- `ext5`: a 5-bit ETC1 field expanded to 8 bits by replication (R13, R175). -/
def ext5 (v : Nat) : Nat := (v <<< 3) ||| (v >>> 2)

/-- `ext4`: a 4-bit ETC1 field expanded to 8 bits by replication (R13, R175). -/
def ext4 (v : Nat) : Nat := (v <<< 4) ||| v

/-- `clamp(v, lo, hi)` (R11). -/
def clamp (v lo hi : Int) : Int := if v < lo then lo else if hi < v then hi else v

/-- A canonical colour: four independent 16-bit channels (R15). -/
structure Color where
  r : Channel
  g : Channel
  b : Channel
  a : Channel
  deriving DecidableEq, Repr

/-- A canonical colour from exact channel values; every rule's values fit 16 bits (R108). -/
def Color.ofNats (r g b a : Nat) : Color :=
  ⟨BitVec.ofNat 16 r, BitVec.ofNat 16 g, BitVec.ofNat 16 b, BitVec.ofNat 16 a⟩

/-- The layout of the RG registers: `{G, R}` (R29). -/
def Color.rg (c : Color) : Word := c.g ++ c.r

/-- The layout of the BA registers: `{A, B}` (R29). -/
def Color.ba (c : Color) : Word := c.a ++ c.b

/-- The canonical colour of an RG and a BA register (R29). -/
def Color.ofWords (rg ba : Word) : Color :=
  ⟨rg.extractLsb 15 0, rg.extractLsb 31 16, ba.extractLsb 15 0, ba.extractLsb 31 16⟩

/-- The colour that ENC reads (R29, R130). -/
def canIn (s : State) : Color := Color.ofWords s.canInRg s.canInBa

/-- The colour last written by DEC, ZERO or ETC1 (R30). -/
def canOut (s : State) : Color := Color.ofWords s.canOutRg s.canOutBa

/-- The alpha-premultiplied form: each of R, G, B is at most A (R15). -/
def Color.premultiplied (c : Color) : Bool := c.r ≤ c.a && c.g ≤ c.a && c.b ≤ c.a

/-- `raw[w-1:0]`, zero-extended: the bits of a RAW register that a format uses (R27). -/
def rawField (f : Fmt) (raw : Word) : Word := (raw.setWidth f.width).setWidth 32

/-- The block in the BLK_IN registers, `{x[BLK_IN1], x[BLK_IN0]}` (R31, R184). -/
def blockIn (s : State) : Block := s.blkIn1 ++ s.blkIn0

/-- Byte `k` of a block, byte 0 being the first in memory (R31, R58). -/
def blockByte (blk : Block) (k : Nat) : Byte := blk.extractLsb' (8 * k) 8

/-- The little-endian value of stored bytes: byte `k` is bits `[8k+7:8k]` (R57, R58). -/
def littleEndian : List Byte → Nat
  | [] => 0
  | b :: bs => b.toNat + 256 * littleEndian bs

/-- The RAW_IN value of a pixel's stored bytes (R57). -/
def rawOfBytes (bytes : List Byte) : Word := BitVec.ofNat 32 (littleEndian bytes)

/-- The BLK_IN0 and BLK_IN1 values of a block's eight stored bytes (R31, R58). -/
def blkInOfBytes (bytes : List Byte) : Word × Word :=
  (BitVec.ofNat 32 (littleEndian (bytes.take 4)), BitVec.ofNat 32 (littleEndian (bytes.drop 4)))

end Sys2Proof.Machine
end

