-- ==== Sys2Proof/Machine/Ops.lean ====
section
/-! DEFINITION. The operations that commands and host accesses share: completing and failing a
command, acknowledging an error, the register map, reads and writes of it, reset, and the place of
the window in the host's address space. -/

namespace Sys2Proof.Machine

/-! ### The end of a command -/

/-- The command completed (R80): DONE <- 1. -/
def complete (s : State) : State := s.setStatus s.status.complete

/-- `raise CmdError(e)` (R211): STATUS says so, and no other register is written. This is the unit's
only exception: nothing else is saved and no control is transferred (R217). -/
def raiseCmdError (e : CmdError) (s : State) : State := s.setStatus (s.status.fail e)

/-- `StatusWrite(v)` (R201): how the host acknowledges an error (R217). -/
def statusWrite (v : Word) (s : State) : State := s.setStatus (s.status.hostWrite v)

/-- A command that writes the canonical result `c` and completes (R30, R33). -/
def finishCanon (c : Color) (s : State) : State := complete (s.setCanOut c.rg c.ba)

/-- A command that writes the packed result `raw` and completes (R28, R33). -/
def finishRaw (raw : Word) (s : State) : State := complete (s.setRawOut raw)

/-! ### The register map -/

/-- The byte offset of a register in the window (R21). -/
def Reg.offset : Reg → Nat
  | .cmd => 0x00
  | .status => 0x04
  | .rawIn => 0x08
  | .rawOut => 0x0C
  | .canInRg => 0x10
  | .canInBa => 0x14
  | .canOutRg => 0x18
  | .canOutBa => 0x1C
  | .blkIn0 => 0x20
  | .blkIn1 => 0x24
  | .rgb8Out => 0x28

/-- Every register of R21. -/
def Reg.all : List Reg :=
  [.cmd, .status, .rawIn, .rawOut, .canInRg, .canInBa, .canOutRg, .canOutBa, .blkIn0, .blkIn1,
    .rgb8Out]

/-- The slot of an access (R51, R52): aligned, 32 bits, inside the window. Every other access has
no slot. -/
def slotOf? (off size : Nat) : Option Slot :=
  if off % 4 = 0 ∧ off < 0x40 ∧ size = 4 then
    match Reg.all.find? (fun r => r.offset == off) with
    | some r => some (.reg r)
    | none => some .reserved
  else none

/-- The current value of a register (R53). -/
def readReg (r : Reg) (s : State) : Word :=
  match r with
  | .cmd => s.cmd
  | .status => s.status.word
  | .rawIn => s.rawIn
  | .rawOut => s.rawOut
  | .canInRg => s.canInRg
  | .canInBa => s.canInBa
  | .canOutRg => s.canOutRg
  | .canOutBa => s.canOutBa
  | .blkIn0 => s.blkIn0
  | .blkIn1 => s.blkIn1
  | .rgb8Out => s.rgb8Out

/-- The value of a slot: reserved slots read 0 (R53). -/
def readSlot (t : Slot) (s : State) : Word :=
  match t with
  | .reg r => readReg r s
  | .reserved => 0

/-- A host read: the host receives the slot's value, and no register changes (R53, R56). -/
def hostRead (t : Slot) (s : State) : State := s.pushRead (readSlot t s)

/-- What a host write does to the register itself (R54). The command that a CMD write launches is
not here: it is Events.lean's `execute`. -/
def writeReg (r : Reg) (v : Word) (s : State) : State :=
  match r with
  | .cmd => s.setCmd v
  | .status => statusWrite v s
  | .rawIn => s.setRawIn v
  | .canInRg => s.setCanInRg v
  | .canInBa => s.setCanInBa v
  | .blkIn0 => s.setBlkIn0 v
  | .blkIn1 => s.setBlkIn1 v
  | .rawOut | .canOutRg | .canOutBa | .rgb8Out => s

/-- A host write of a slot; a reserved slot ignores it (R54). -/
def hostWrite (t : Slot) (v : Word) (s : State) : State :=
  match t with
  | .reg r => writeReg r v s
  | .reserved => s

/-- A host write of this slot launches a command: CMD alone (R54, R67). -/
def launches (t : Slot) : Bool := t == .reg .cmd

/-! ### Reset -/

/-- Reset is asserted (R240): every register takes its reset value and no command runs. Parameters
are not state (R241); the host keeps its events and what it has read. -/
def takeReset (s : State) : State :=
  { State.resetWith s.params with pending := s.pending, hostReads := s.hostReads }

/-! ### The window in the host's address space -/

/-- The offset of a host address in a window at `base` (R51), or none where it lies outside. -/
def windowOffset (base addr : Nat) : Option Nat :=
  if base ≤ addr ∧ addr < base + 0x40 then some (addr - base) else none

/-- The event that an access of `size` bytes at a host address is to the unit, `at_` being the event of an
offset: at its offset if it starts in the window, refused later if it starts below and runs in (R52),
and none if no byte of it lies in the window (assumption log 4). -/
def windowEvent (base addr size : Nat) (at_ : Nat → HostEvent) : Option HostEvent :=
  match windowOffset base addr with
  | some off => some (at_ off)
  | none => if addr < base ∧ base < addr + size then some .straddlingAccess else none

/-- The host issues an access, after every access issued before it (R65). -/
def issue (e : Option HostEvent) (s : State) : State :=
  match e with
  | some e => s.setPending (s.pending ++ [e])
  | none => s

/-- The host issues a read of `size` bytes at a host address, the window being at `base` (R51 to R53). -/
def busReadAt (base addr size : Nat) (s : State) : State :=
  issue (windowEvent base addr size (fun off => .read off size)) s

/-- The host issues a write of `size` bytes at a host address, the window being at `base` (R51, R52, R54). -/
def busWriteAt (base addr size : Nat) (v : Word) (s : State) : State :=
  issue (windowEvent base addr size (fun off => .write off size v)) s

/-- The host issues a read where the platform placed the window (R51). -/
def busRead (addr size : Nat) (s : State) : State := busReadAt Config.unitBase addr size s

/-- The host issues a write where the platform placed the window (R51). -/
def busWrite (addr size : Nat) (v : Word) (s : State) : State :=
  busWriteAt Config.unitBase addr size v s

end Sys2Proof.Machine
end

