-- ==== Sys2Proof/Machine/Control.lean ====
section
/-! DEFINITION. Control commands, 43_control.md. Its STATUS write is `statusWrite` of Ops.lean. -/

namespace Sys2Proof.Machine

/-- NOP (R200): no register written but STATUS.DONE. -/
def execNop (s : State) : Host.Outcome State Fault Refusal := .next (complete s)

end Sys2Proof.Machine
end

