-- ==== Sys2Proof/Machine/PackedDecode.lean ====
section
/-! DEFINITION. Packed-pixel decode, 40_packed_decode.md: the six functions from a packed raw value
to a canonical colour, and the six DEC commands. -/

namespace Sys2Proof.Machine

/-- A field `f` of full scale `W` scaled to 16 bits (R100). -/
def scale (m : ScaleMode) (f W : Nat) : Nat :=
  match m with
  | .mulDiv => (f * 0xFFFF) / W
  | .quotFirst => f * (0xFFFF / W)

/-- An 8-bit channel expanded to 16 bits and multiplied by an 8-bit alpha (R101, R106). -/
def premul8 (c a : Nat) : Nat := (rep8 c * a) / 0xFF

/-- A 4-bit channel expanded to 16 bits and multiplied by a 4-bit alpha (R104). -/
def premul4 (c a : Nat) : Nat := (rep4 c * a) / 0xF

/-- `Dec_GA88` (R101): gray in `[7:0]`, alpha in `[15:8]`. -/
def decodeGa88 (raw : Word) : Color :=
  let gray := bits raw 7 0
  let alpha := bits raw 15 8
  let v := premul8 gray alpha
  Color.ofNats v v v (rep8 alpha)

/-- `Dec_R8` (R102): red in `[7:0]`, opaque. -/
def decodeR8 (raw : Word) : Color :=
  Color.ofNats (rep8 (bits raw 7 0)) 0 0 0xFFFF

/-- `Dec_RGB565` (R103): R `[15:11]`, G `[10:5]`, B `[4:0]`, opaque. -/
def decodeRgb565 (m : ScaleMode) (raw : Word) : Color :=
  Color.ofNats (scale m (bits raw 15 11) (fullScale 5)) (scale m (bits raw 10 5) (fullScale 6))
    (scale m (bits raw 4 0) (fullScale 5)) 0xFFFF

/-- `Dec_RGBA4444` (R104): nibbles R, G, B, A from high to low. -/
def decodeRgba4444 (raw : Word) : Color :=
  let a4 := bits raw 3 0
  Color.ofNats (premul4 (bits raw 15 12) a4) (premul4 (bits raw 11 8) a4)
    (premul4 (bits raw 7 4) a4) (rep4 a4)

/-- `Dec_RGBA5551` (R105): R `[15:11]`, G `[10:6]`, B `[5:1]`, A `[0]`; alpha 0 collapses the colour. -/
def decodeRgba5551 (m : ScaleMode) (raw : Word) : Color :=
  if bits raw 0 0 = 0 then Color.ofNats 0 0 0 0
  else
    Color.ofNats (scale m (bits raw 15 11) (fullScale 5)) (scale m (bits raw 10 6) (fullScale 5))
      (scale m (bits raw 5 1) (fullScale 5)) 0xFFFF

/-- `Dec_BGRA8888` (R106): B `[7:0]`, G `[15:8]`, R `[23:16]`, A `[31:24]`. -/
def decodeBgra8888 (raw : Word) : Color :=
  let a8 := bits raw 31 24
  Color.ofNats (premul8 (bits raw 23 16) a8) (premul8 (bits raw 15 8) a8)
    (premul8 (bits raw 7 0) a8) (rep8 a8)

/-- `Dec_f` (R101 to R106). -/
def decodeFmt (p : Params) (f : Fmt) (raw : Word) : Color :=
  match f with
  | .ga88 => decodeGa88 raw
  | .r8 => decodeR8 raw
  | .rgb565 => decodeRgb565 p.scaleMode raw
  | .rgba4444 => decodeRgba4444 raw
  | .rgba5551 => decodeRgba5551 p.scaleMode raw
  | .bgra8888 => decodeBgra8888 raw

/-- DEC.GA88 (R101). -/
def execDecGa88 (s : State) : Host.Outcome State Fault Refusal :=
  .next (finishCanon (decodeGa88 s.rawIn) s)

/-- DEC.R8 (R102). -/
def execDecR8 (s : State) : Host.Outcome State Fault Refusal :=
  .next (finishCanon (decodeR8 s.rawIn) s)

/-- DEC.RGB565 (R103). -/
def execDecRgb565 (s : State) : Host.Outcome State Fault Refusal :=
  .next (finishCanon (decodeRgb565 s.params.scaleMode s.rawIn) s)

/-- DEC.RGBA4444 (R104). -/
def execDecRgba4444 (s : State) : Host.Outcome State Fault Refusal :=
  .next (finishCanon (decodeRgba4444 s.rawIn) s)

/-- DEC.RGBA5551 (R105). -/
def execDecRgba5551 (s : State) : Host.Outcome State Fault Refusal :=
  .next (finishCanon (decodeRgba5551 s.params.scaleMode s.rawIn) s)

/-- DEC.BGRA8888 (R106). -/
def execDecBgra8888 (s : State) : Host.Outcome State Fault Refusal :=
  .next (finishCanon (decodeBgra8888 s.rawIn) s)

end Sys2Proof.Machine
end

