-- ==== Sys2Proof/Machine/PackedEncode.lean ====
section
/-! DEFINITION. Packed-pixel encode, 41_packed_encode.md sections 1 and 2: the six functions from a
canonical colour to a packed raw value, and the six ENC commands. -/

namespace Sys2Proof.Machine

/-- The alpha field of width `w` (R131). -/
def alphaField (m : EncAlphaBits) (a : Channel) (w : Nat) : BitVec w :=
  match m with
  | .low => a.extractLsb' 0 w
  | .high => topBits w a

/-- `unp(c, A, w)` (R132): the quotient's bits above 15 are discarded, then the field keeps the high
bits. Used with `0 < A < 0xFFFF`. -/
def unpremultiply (c a : Channel) (w : Nat) : BitVec w :=
  topBits w (BitVec.ofNat 16 ((c.toNat * 0xFFFF) / a.toNat))

/-- `field(c, A, w)`, the three-way alpha branch (R133). -/
def colourField (c a : Channel) (w : Nat) : BitVec w :=
  if a = 0xFFFF then topBits w c
  else if a = 0 then 0
  else unpremultiply c a w

/-- `Enc_GA88` (R134): alpha in `[15:8]`, gray, taken from R, in `[7:0]`. -/
def encodeGa88 (m : EncAlphaBits) (c : Color) : Word :=
  if c.a = 0 then 0
  else (alphaField m c.a 8 ++ colourField c.r c.a 8).setWidth 32

/-- `Enc_R8` (R135). -/
def encodeR8 (c : Color) : Word := (topBits 8 c.r).setWidth 32

/-- `Enc_RGB565` (R136): alpha is not read. -/
def encodeRgb565 (c : Color) : Word :=
  (topBits 5 c.r ++ topBits 6 c.g ++ topBits 5 c.b).setWidth 32

/-- `Enc_RGBA4444` (R137). -/
def encodeRgba4444 (m : EncAlphaBits) (c : Color) : Word :=
  if c.a = 0 then 0
  else
    (colourField c.r c.a 4 ++ colourField c.g c.a 4 ++ colourField c.b c.a 4 ++
      alphaField m c.a 4).setWidth 32

/-- `Enc_RGBA5551` (R138): the colour fields do not depend on alpha. -/
def encodeRgba5551 (m : EncAlphaBits) (c : Color) : Word :=
  (topBits 5 c.r ++ topBits 5 c.g ++ topBits 5 c.b ++ alphaField m c.a 1).setWidth 32

/-- `Enc_BGRA8888` (R139): A `[31:24]`, R `[23:16]`, G `[15:8]`, B `[7:0]`. -/
def encodeBgra8888 (m : EncAlphaBits) (c : Color) : Word :=
  if c.a = 0 then 0
  else
    alphaField m c.a 8 ++ colourField c.r c.a 8 ++ colourField c.g c.a 8 ++ colourField c.b c.a 8

/-- `Enc_f` (R134 to R139). -/
def encodeFmt (p : Params) (f : Fmt) (c : Color) : Word :=
  match f with
  | .ga88 => encodeGa88 p.encAlphaBits c
  | .r8 => encodeR8 c
  | .rgb565 => encodeRgb565 c
  | .rgba4444 => encodeRgba4444 p.encAlphaBits c
  | .rgba5551 => encodeRgba5551 p.encAlphaBits c
  | .bgra8888 => encodeBgra8888 p.encAlphaBits c

/-- ENC.GA88 (R134). -/
def execEncGa88 (s : State) : Host.Outcome State Fault Refusal :=
  .next (finishRaw (encodeGa88 s.params.encAlphaBits (canIn s)) s)

/-- ENC.R8 (R135). -/
def execEncR8 (s : State) : Host.Outcome State Fault Refusal :=
  .next (finishRaw (encodeR8 (canIn s)) s)

/-- ENC.RGB565 (R136). -/
def execEncRgb565 (s : State) : Host.Outcome State Fault Refusal :=
  .next (finishRaw (encodeRgb565 (canIn s)) s)

/-- ENC.RGBA4444 (R137). -/
def execEncRgba4444 (s : State) : Host.Outcome State Fault Refusal :=
  .next (finishRaw (encodeRgba4444 s.params.encAlphaBits (canIn s)) s)

/-- ENC.RGBA5551 (R138). -/
def execEncRgba5551 (s : State) : Host.Outcome State Fault Refusal :=
  .next (finishRaw (encodeRgba5551 s.params.encAlphaBits (canIn s)) s)

/-- ENC.BGRA8888 (R139). -/
def execEncBgra8888 (s : State) : Host.Outcome State Fault Refusal :=
  .next (finishRaw (encodeBgra8888 s.params.encAlphaBits (canIn s)) s)

end Sys2Proof.Machine
end

