-- ==== Sys2Proof/Machine/ConvertZero.lean ====
section
/-! DEFINITION. CONV and ZERO, 41_packed_encode.md section 3. -/

namespace Sys2Proof.Machine

/-- The packed result of CONV (R140): the identity shortcut where the formats are equal, else encode
of decode. Bits of `raw` above the source width are dropped either way. -/
def convert (p : Params) (src dst : Fmt) (raw : Word) : Word :=
  let r := rawField src raw
  if src = dst then r else encodeFmt p dst (decodeFmt p src r)

/-- CONV s, d (R140): RAW_OUT only. -/
def execConv (src dst : Fmt) (s : State) : Host.Outcome State Fault Refusal :=
  .next (finishRaw (convert s.params src dst s.rawIn) s)

/-- ZERO d (R145): the raw zero value, which is 0 for every format, and its decode. -/
def execZero (dst : Fmt) (s : State) : Host.Outcome State Fault Refusal :=
  .next (finishCanon (decodeFmt s.params dst 0) (s.setRawOut 0))

end Sys2Proof.Machine
end

