-- ==== Sys2Proof/Machine/Etc1.lean ====
section
/-! DEFINITION. The ETC1 block decompressor, 42_etc1.md. Bytes `b0` to `b7` of a block are
`blockByte blk 0` to `blockByte blk 7` (R31, R170). -/

namespace Sys2Proof.Machine

/-- One of the two halves of a block (R16): `first` is sub-block 0, `second` is sub-block 1. -/
inductive SubBlock where
  | first
  | second
  deriving DecidableEq, Repr

/-- The three 8-bit channels of a decoded pixel or of a base colour, as integers. -/
structure Rgb where
  r : Nat
  g : Nat
  b : Nat
  deriving DecidableEq, Repr

/-- The diff bit, `b3[1]` (R171). -/
def diffBit (blk : Block) : Bool := (blockByte blk 3)[1]

/-- The flip bit, `b3[0]` (R171). -/
def flipBit (blk : Block) : Bool := (blockByte blk 3)[0]

/-- Sub-block membership (R172): flip set splits by row, flip clear by column. -/
def membership (flip : Bool) (lx ly : BitVec 2) : SubBlock :=
  if flip then (if ly.toNat < 2 then .first else .second)
  else (if lx.toNat < 2 then .first else .second)

/-- The code-word selector (R173): `b3[7:5]` or `b3[4:2]`. -/
def selector (blk : Block) (sub : SubBlock) : BitVec 3 :=
  match sub with
  | .first => (blockByte blk 3).extractLsb 7 5
  | .second => (blockByte blk 3).extractLsb 4 2

/-- The raw pixel index (R174): bit `4 * lx + ly` of the high plane (b4, b5) over that of the low
plane (b6, b7). -/
def rawIndex (blk : Block) (lx ly : BitVec 2) : BitVec 2 :=
  let i := 4 * lx.toNat + ly.toNat
  let hi := if 8 ≤ i then (blockByte blk 4).getLsbD (i - 8) else (blockByte blk 5).getLsbD i
  let lo := if 8 ≤ i then (blockByte blk 6).getLsbD (i - 8) else (blockByte blk 7).getLsbD i
  BitVec.ofBool hi ++ BitVec.ofBool lo

/-- The index reorder table REMAP (R178). -/
def remapTable : Vector (Fin 4) 4 := #v[2, 3, 1, 0]

/-- The code-word (modifier) table MOD (R179): a row a selector, a column a reordered index. -/
def modTable : Vector (Vector Int 4) 8 :=
  #v[#v[-8, -2, 2, 8],
     #v[-17, -5, 5, 17],
     #v[-29, -9, 9, 29],
     #v[-42, -13, 13, 42],
     #v[-60, -18, 18, 60],
     #v[-80, -24, 24, 80],
     #v[-106, -33, 33, 106],
     #v[-183, -47, 47, 183]]

/-- `col <- REMAP[rawIdx]` (R178). -/
def column (rawIdx : BitVec 2) : Fin 4 := remapTable.get rawIdx.toFin

/-- `MOD[cw][col]` (R179). -/
def modifier (cw : BitVec 3) (col : Fin 4) : Int := (modTable.get cw.toFin).get col

/-- `sext_3(d)` (R11). -/
def sext3 (d : BitVec 3) : Int := d.toInt

/-- `sum5(b)` (R177): the 5-bit field plus the signed delta, kept to 5 bits. -/
def sum5 (b : Byte) : Nat := ((bits b 7 3 + sext3 (b.extractLsb 2 0)) % 32).toNat

/-- The base colour of sub-block 0 (R175). -/
def baseFirst (blk : Block) : Rgb :=
  let b0 := blockByte blk 0
  let b1 := blockByte blk 1
  let b2 := blockByte blk 2
  if diffBit blk then ⟨ext5 (bits b0 7 3), ext5 (bits b1 7 3), ext5 (bits b2 7 3)⟩
  else ⟨ext4 (bits b0 7 4), ext4 (bits b1 7 4), ext4 (bits b2 7 4)⟩

/-- The base colour of sub-block 1 (R176). -/
def baseSecond (m : Etc1DiffMap) (blk : Block) : Rgb :=
  let b0 := blockByte blk 0
  let b1 := blockByte blk 1
  let b2 := blockByte blk 2
  if diffBit blk then
    let c0 := ext5 (sum5 b0)
    let c1 := ext5 (sum5 b1)
    let c2 := ext5 (sum5 b2)
    match m with
    | .doc => ⟨c0, c2, c1⟩
    | .standard => ⟨c0, c1, c2⟩
  else ⟨ext4 (bits b0 3 0), ext4 (bits b1 3 0), ext4 (bits b2 3 0)⟩

/-- One output channel (R180): base plus modifier, clamped to 8 bits. -/
def mixChannel (base : Nat) (m : Int) : Nat := (clamp (base + m) 0 255).toNat

/-- The pixel at local column `lx` and row `ly` of a block (R184): every channel takes the same
modifier (R180). -/
def decodeEtc1 (m : Etc1DiffMap) (blk : Block) (lx ly : BitVec 2) : Rgb :=
  let sub := membership (flipBit blk) lx ly
  let d := modifier (selector blk sub) (column (rawIndex blk lx ly))
  let base := match sub with
    | .first => baseFirst blk
    | .second => baseSecond m blk
  ⟨mixChannel base.r d, mixChannel base.g d, mixChannel base.b d⟩

/-- RGB8_OUT's layout, `{0xFF, B, G, R}` (R32, R184). -/
def Rgb.packed (p : Rgb) : Word :=
  (0xFF : Byte) ++ BitVec.ofNat 8 p.b ++ BitVec.ofNat 8 p.g ++ BitVec.ofNat 8 p.r

/-- The canonical form of a decoded pixel (R181): opaque, each channel expanded. -/
def Rgb.canonical (p : Rgb) : Color := Color.ofNats (rep8 p.r) (rep8 p.g) (rep8 p.b) 0xFFFF

/-- ETC1 lx, ly (R184): RGB8_OUT and CAN_OUT. -/
def execEtc1 (lx ly : BitVec 2) (s : State) : Host.Outcome State Fault Refusal :=
  let pixel := decodeEtc1 s.params.etc1DiffMap (blockIn s) lx ly
  .next (finishCanon pixel.canonical (s.setRgb8Out pixel.packed))

end Sys2Proof.Machine
end

