-- ==== Sys2Proof/Machine/Dispatch.lean ====
section
/-! DEFINITION. The case on `op` of 30_encoding.md rule R80: one arm per instruction. -/

namespace Sys2Proof.Machine

/-- What a command does once its word is decoded (R73, R80). -/
def exec (i : Instr) (s : State) : Host.Outcome State Fault Refusal :=
  match i with
  | .nop => Sys2Proof.Machine.execNop s
  -- 40_packed_decode.md
  | .decGa88 => Sys2Proof.Machine.execDecGa88 s
  | .decR8 => Sys2Proof.Machine.execDecR8 s
  | .decRgb565 => Sys2Proof.Machine.execDecRgb565 s
  | .decRgba4444 => Sys2Proof.Machine.execDecRgba4444 s
  | .decRgba5551 => Sys2Proof.Machine.execDecRgba5551 s
  | .decBgra8888 => Sys2Proof.Machine.execDecBgra8888 s
  -- 41_packed_encode.md
  | .encGa88 => Sys2Proof.Machine.execEncGa88 s
  | .encR8 => Sys2Proof.Machine.execEncR8 s
  | .encRgb565 => Sys2Proof.Machine.execEncRgb565 s
  | .encRgba4444 => Sys2Proof.Machine.execEncRgba4444 s
  | .encRgba5551 => Sys2Proof.Machine.execEncRgba5551 s
  | .encBgra8888 => Sys2Proof.Machine.execEncBgra8888 s
  | .conv sf df => Sys2Proof.Machine.execConv sf df s
  | .zero df => Sys2Proof.Machine.execZero df s
  -- 42_etc1.md
  | .etc1 lx ly => Sys2Proof.Machine.execEtc1 lx ly s

end Sys2Proof.Machine
end

