-- ==== Sys2Proof/Machine/Events.lean ====
section
/-! DEFINITION. What one event does to the unit (00_scope.md rule R17, 20_memory.md rules R52 to
R55): a CMD write and the whole command it launches are one indivisible event. -/

namespace Sys2Proof.Machine

/-- `Execute(v)` (R80): the command that the word names, or the one error it reports. -/
def execute (v : Word) (s : State) : Host.Outcome State Fault Refusal :=
  match decode v with
  | .ok i => exec i s
  | .error e => .next (raiseCmdError e s)

/-- One event, already taken off the queue: a read (R53), a write, which launches a command if it
writes CMD (R54), a reset (R240), or what the spec has a model refuse (R52, R243, R222). -/
def takeEvent (e : HostEvent) (s : State) : Host.Outcome State Fault Refusal :=
  match e with
  | .read off size =>
    match slotOf? off size with
    | some t => .next (hostRead t s)
    | none => .refused .unsupportedAccess
  | .write off size v =>
    match slotOf? off size with
    | some t => if launches t then execute v (hostWrite t v s) else .next (hostWrite t v s)
    | none => .refused .unsupportedAccess
  | .straddlingAccess => .refused .unsupportedAccess
  | .reset => .next (takeReset s)
  | .accessDuringReset => .refused .accessDuringReset
  | .secondHostAccess => .refused .secondHost

end Sys2Proof.Machine
end

