-- ==== Sys2Proof/Machine/Step.lean ====
section
/-! DEFINITION. One step of the unit, and how a command word comes to be its next event. -/

namespace Sys2Proof.Machine

/-- One step: the oldest pending event (R17, R65). With none pending the unit holds its registers
(R224; assumption log 2). -/
def step (s : State) : Host.Outcome State Fault Refusal :=
  match s.pending with
  | [] => .next s
  | e :: es => takeEvent e (s.setPending es)

/-- `s` with the table word's command written to CMD as the very next event: the unit has no program
counter and no fetch (R20, R68), and a command word is what the host writes to CMD (R3; assumption
log 17). -/
def State.withFetchWord (s : State) (nbits w : Nat) : State :=
  s.setPending (.write Reg.cmd.offset 4 (tableWord nbits w) :: s.pending)

end Sys2Proof.Machine
end

