-- ==== Sys2Proof/Machine/HostLayout.lean ====
section
/-! DEFINITION. The image layouts of 20_memory.md rules R60 to R64, from which a model of the host
forms the unit's operands. The unit computes none of this (D32), and `step` calls none of it. -/

namespace Sys2Proof.Machine

/-- Whether the Rectangle's max edge is inside the image: not stated, so a parameter of the host
(R60; 91_not_in_source.md N27; assumption log 14). -/
inductive MaxEdge where
  | outside
  | inside
  deriving DecidableEq, Repr

/-- A Rectangle: integer min and max, X and Y (R60). -/
structure Rectangle where
  minX : Int
  minY : Int
  maxX : Int
  maxY : Int
  deriving DecidableEq, Repr

/-- "min ≤ max on both axes" (R60). -/
def Rectangle.wf (r : Rectangle) : Bool := r.minX ≤ r.maxX && r.minY ≤ r.maxY

/-- The pixels from a min edge to a max edge. -/
def extent (e : MaxEdge) (lo hi : Int) : Nat :=
  match e with
  | .outside => (hi - lo).toNat
  | .inside => (hi - lo + 1).toNat

/-- The image's width and height in pixels. -/
def Rectangle.size (e : MaxEdge) (r : Rectangle) : Nat × Nat :=
  (extent e r.minX r.maxX, extent e r.minY r.maxY)

/-- The pixel lies in the Rectangle (R63). -/
def Rectangle.contains (e : MaxEdge) (r : Rectangle) (x y : Int) : Bool :=
  r.minX ≤ x && x < r.minX + extent e r.minX r.maxX && r.minY ≤ y && y < r.minY + extent e r.minY r.maxY

/-- A planar image: a byte buffer, a stride in bytes, a Rectangle and a format (R60). -/
structure PlanarImage where
  buffer : List Byte
  stride : Nat
  rect : Rectangle
  fmt : Fmt
  deriving DecidableEq, Repr

/-- "buffer length ≥ stride × height" (R60). -/
def PlanarImage.wf (e : MaxEdge) (im : PlanarImage) : Bool :=
  im.rect.wf && im.stride * (im.rect.size e).2 ≤ im.buffer.length

/-- The pixel payload of a planar image, width × height × bytesPerPixel (R64). -/
def planarPayload (f : Fmt) (width height : Nat) : Nat := width * height * f.bytesPerPixel

/-- A newly created image with rows packed: its buffer is zero-initialised (R60). -/
def PlanarImage.new (e : MaxEdge) (r : Rectangle) (f : Fmt) : PlanarImage :=
  let (w, h) := r.size e
  ⟨List.replicate (planarPayload f w h) 0, w * f.bytesPerPixel, r, f⟩

/-- The byte offset of a pixel (R60). -/
def PlanarImage.pixelOffset (im : PlanarImage) (x y : Int) : Int :=
  (y - im.rect.minY) * im.stride + (x - im.rect.minX) * im.fmt.bytesPerPixel

/-- The RAW_IN value of a pixel, or none outside the Rectangle, where the host asks the unit for
the format's zero colour with ZERO (R57, R63). R60 does not relate the stride to the width, so the
bytes of a pixel inside the Rectangle can run past the buffer: the bytes that the buffer lacks read
as 0, which is the model's own choice and no rule (assumption log 19). -/
def PlanarImage.raw? (e : MaxEdge) (im : PlanarImage) (x y : Int) : Option Word :=
  if im.rect.contains e x y then
    some (rawOfBytes ((im.buffer.drop (im.pixelOffset x y).toNat).take im.fmt.bytesPerPixel))
  else none

/-- The stored bytes of a raw value, low byte first (R57). -/
def bytesOfRaw (f : Fmt) (raw : Word) : List Byte :=
  (List.range f.bytesPerPixel).map (fun k => raw.extractLsb' (8 * k) 8)

/-- `pixel_at` of a planar image: the decoded pixel, and outside the Rectangle the format's zero
colour, the decode of raw 0, "rather than reading memory" (R63, R145; 90_conflicts.md C10). -/
def PlanarImage.pixelAt (p : Params) (e : MaxEdge) (im : PlanarImage) (x y : Int) : Color :=
  match im.raw? e x y with
  | some raw => decodeFmt p im.fmt raw
  | none => decodeFmt p im.fmt 0

/-- `set_pixel`: a no-op outside the bounds (R63). Where the bytes of a pixel inside the Rectangle run past
the buffer, which R60 does not rule out, the write puts them at the end and lengthens the buffer: the
model's own choice and no rule (assumption log 19). -/
def PlanarImage.setRaw (e : MaxEdge) (im : PlanarImage) (x y : Int) (raw : Word) : PlanarImage :=
  if im.rect.contains e x y then
    let off := (im.pixelOffset x y).toNat
    { im with
      buffer := im.buffer.take off ++ bytesOfRaw im.fmt raw ++ im.buffer.drop (off + im.fmt.bytesPerPixel) }
  else im

/-- `ceil(n/4)`: the blocks that cover `n` pixels; the last may be partial and is full-sized in
storage (R61, R62). -/
def blocksFor (n : Nat) : Nat := (n + 3) / 4

/-- The block grid of a block-compressed image (R61). -/
def blockGrid (width height : Nat) : Nat × Nat := (blocksFor width, blocksFor height)

/-- The byte offset of the block that holds the pixel at `(x, y)` relative to the image origin, the
blocks being row-major, 8 bytes each, contiguous (R61). -/
def blockOffset (width x y : Nat) : Nat := (y / 4 * blocksFor width + x / 4) * 8

/-- A pixel's local coordinates `(lx, ly)` in its block (R61). -/
def localCoords (x y : Nat) : BitVec 2 × BitVec 2 := (BitVec.ofNat 2 (x % 4), BitVec.ofNat 2 (y % 4))

/-- The pixel payload of a block-compressed image (R64). -/
def blockPayload (width height : Nat) : Nat := blocksFor width * blocksFor height * 8

/-- The BLK_IN0 and BLK_IN1 values of the block that holds a pixel inside the image (R58, R61). The bounds
check of R63 is `BlockImage.operands?`. Bytes that the payload lacks read as 0 (assumption log 19). -/
def blockOperands (payload : List Byte) (width x y : Nat) : Word × Word :=
  blkInOfBytes ((payload.drop (blockOffset width x y)).take 8)

/-- A block-compressed image: its payload and its declared Rectangle (R61, R63). -/
structure BlockImage where
  payload : List Byte
  rect : Rectangle
  deriving DecidableEq, Repr

/-- The payload has the size that R64 gives it. -/
def BlockImage.wf (e : MaxEdge) (im : BlockImage) : Bool :=
  im.rect.wf && im.payload.length == blockPayload (im.rect.size e).1 (im.rect.size e).2

/-- The operands of the ETC1 command for a pixel, its block and its local coordinates, or none outside the
Rectangle, where no memory is read (R61, R63). The image origin of R61 is the Rectangle's min corner
(assumption log 20). -/
def BlockImage.operands? (e : MaxEdge) (im : BlockImage) (x y : Int) :
    Option ((Word × Word) × (BitVec 2 × BitVec 2)) :=
  if im.rect.contains e x y then
    let px := (x - im.rect.minX).toNat
    let py := (y - im.rect.minY).toNat
    some (blockOperands im.payload (im.rect.size e).1 px py, localCoords px py)
  else none

/-- `pixel_at` of a block-compressed image: the decoded pixel, and outside the Rectangle the format's
zero colour (R63, R181). -/
def BlockImage.pixelAt (m : Etc1DiffMap) (e : MaxEdge) (im : BlockImage) (x y : Int) : Color :=
  match im.operands? e x y with
  | some ((w0, w1), (lx, ly)) => (decodeEtc1 m (w1 ++ w0) lx ly).canonical
  | none =>
    let (r, g, b, a) := Config.blockZeroColour
    ⟨r, g, b, a⟩

end Sys2Proof.Machine
end

