-- ==== Sys2Proof/Machine/HostProgram.lean ====
section
/-! DEFINITION. The command syntax of 30_encoding.md rule R82 and the host-program statements of
rule R83, as the commands and host events they stand for. -/

namespace Sys2Proof

/-- The name of a format in a command (R14, R82). -/
def Fmt.name : Fmt → List Char
  | .ga88 => ['G', 'A', '8', '8']
  | .r8 => ['R', '8']
  | .rgb565 => ['R', 'G', 'B', '5', '6', '5']
  | .rgba4444 => ['R', 'G', 'B', 'A', '4', '4', '4', '4']
  | .rgba5551 => ['R', 'G', 'B', 'A', '5', '5', '5', '1']
  | .bgra8888 => ['B', 'G', 'R', 'A', '8', '8', '8', '8']

/-- A local coordinate as a decimal digit (R82). -/
def coordDigit (c : BitVec 2) : List Char := [Char.ofNat (48 + c.toNat)]

/-- The tokens of a command: its mnemonic, then its operands separated by commas (R82). -/
def Instr.tokens : Instr → List (List Char)
  | .nop => [['N', 'O', 'P']]
  | .decGa88 => [['D', 'E', 'C', '.'] ++ Fmt.name .ga88]
  | .decR8 => [['D', 'E', 'C', '.'] ++ Fmt.name .r8]
  | .decRgb565 => [['D', 'E', 'C', '.'] ++ Fmt.name .rgb565]
  | .decRgba4444 => [['D', 'E', 'C', '.'] ++ Fmt.name .rgba4444]
  | .decRgba5551 => [['D', 'E', 'C', '.'] ++ Fmt.name .rgba5551]
  | .decBgra8888 => [['D', 'E', 'C', '.'] ++ Fmt.name .bgra8888]
  | .encGa88 => [['E', 'N', 'C', '.'] ++ Fmt.name .ga88]
  | .encR8 => [['E', 'N', 'C', '.'] ++ Fmt.name .r8]
  | .encRgb565 => [['E', 'N', 'C', '.'] ++ Fmt.name .rgb565]
  | .encRgba4444 => [['E', 'N', 'C', '.'] ++ Fmt.name .rgba4444]
  | .encRgba5551 => [['E', 'N', 'C', '.'] ++ Fmt.name .rgba5551]
  | .encBgra8888 => [['E', 'N', 'C', '.'] ++ Fmt.name .bgra8888]
  | .conv s d => [['C', 'O', 'N', 'V'], s.name, [','], d.name]
  | .zero d => [['Z', 'E', 'R', 'O'], d.name]
  | .etc1 lx ly => [['E', 'T', 'C', '1'], coordDigit lx, [','], coordDigit ly]

/-- A word under way, if any, ends here. -/
def endToken (cur : List Char) (rest : List (List Char)) : List (List Char) :=
  if cur.isEmpty then rest else cur.reverse :: rest

/-- The tokens of a source line: blanks separate words, a comma is a token, and a semicolon starts a
comment (R82; assumption log 15). `cur` is the word under way, reversed. -/
def lineTokens (cur : List Char) : List Char → List (List Char)
  | [] => endToken cur []
  | c :: cs =>
    if c = ';' then endToken cur []
    else if c = ' ' ∨ c = '\t' then endToken cur (lineTokens [] cs)
    else if c = ',' then endToken cur ([','] :: lineTokens [] cs)
    else lineTokens (c :: cur) cs

/-- The command word of a source line, or none where the line is no command (R82). -/
def assemble (line : List Char) : Option Word :=
  (Instr.all.find? (fun i => i.tokens == lineTokens [] line)).map encode

namespace Machine

/-- A statement of a host program (R83). -/
inductive HostStmt where
  /-- `WR <reg>, <value>`. -/
  | wr (r : Reg) (v : Word)
  /-- `RD <reg>`. -/
  | rd (r : Reg)
  /-- `CMD <command>`. -/
  | cmd (i : Instr)
  /-- `CLRERR`. -/
  | clrErr
  /-- `CMDW <value>`. -/
  | cmdw (v : Word)
  deriving DecidableEq, Repr

/-- The host access a statement is (R83). -/
def HostStmt.event : HostStmt → HostEvent
  | .wr r v => .write r.offset 4 v
  | .rd r => .read r.offset 4
  | .cmd i => .write Reg.cmd.offset 4 (encode i)
  | .clrErr => .write Reg.status.offset 4 0x00000002
  | .cmdw v => .write Reg.cmd.offset 4 v

/-- The unit from reset under the parameters `p`, with a straight-line host program to run: the unit
has no control flow, so a program is its accesses in order (R20, R83). -/
def State.withProgram (p : Params) (prog : List HostStmt) : State :=
  (State.resetWith p).setPending (prog.map HostStmt.event)

end Machine

end Sys2Proof
end

