-- ==== Sys2Proof/Safety.lean ====
section
/-! DEFINITION. What a safe run is, and the invariant of the registers that claims rest on. -/

namespace Sys2Proof.Machine

/-- The event is one that the spec gives a meaning: an aligned 32-bit access inside the window, or a
reset between accesses (R52, R243, R222). -/
def HostEvent.supported : HostEvent → Bool
  | .read off size => off % 4 = 0 && off < 0x40 && size = 4
  | .write off size _ => off % 4 = 0 && off < 0x40 && size = 4
  | .straddlingAccess => false
  | .reset => true
  | .accessDuringReset => false
  | .secondHostAccess => false

/-- A safe run: everything still to come is supported. -/
def State.safe (s : State) : Bool := s.pending.all HostEvent.supported

/-- The word is a command (R78). -/
def legalWord (v : Word) : Bool :=
  match decode v with
  | .ok _ => true
  | .error _ => false

/-- STATUS tells the outcome of the command in CMD (R22, R23): DONE says that the word was a command,
and ERR without DONE says that it failed with ECODE. Neither is after reset, or after a failure that
the host has acknowledged (R244). -/
def statusTellsCommand (s : State) : Bool :=
  match s.status.done, s.status.err with
  | true, _ => legalWord s.cmd
  | false, true =>
    match decode s.cmd, s.status.ecode with
    | .error e, some c => e == c
    | _, _ => false
  | false, false => s.cmd == 0 || !legalWord s.cmd

/-- The invariant of the registers. -/
structure Inv (s : State) : Prop where
  /-- ERR is set exactly while ECODE holds a code (R25, R210). -/
  errIffCode : s.status.err = s.status.ecode.isSome
  /-- STATUS is about the word in CMD (R22 to R25). -/
  statusOfCommand : statusTellsCommand s = true
  /-- CAN_OUT is alpha-premultiplied (R15, R108, R181). -/
  canOutPremultiplied : (canOut s).premultiplied = true
  /-- RGB8_OUT is 0, as after reset, or an opaque pixel (R32). -/
  rgb8Opaque : s.rgb8Out = 0 ∨ s.rgb8Out.extractLsb 31 24 = 0xFF

end Sys2Proof.Machine
end

