-- ==== Sys2Proof/Certificates/Slice0/Obligations.lean ====
section
/-! DEFINITION. The statements for the provers. Where a statement says what a command computes, it
says so in arithmetic on natural numbers written here from the spec's rule, not through the model's
own functions. -/

open Sys2Proof Sys2Proof.Machine

namespace Sys2Proof.Claims

/-! ### The spec's notation, in arithmetic -/

/-- `v[hi:lo]` (R10). -/
def field (v : Word) (hi lo : Nat) : Nat := v.toNat / 2 ^ lo % 2 ^ (hi + 1 - lo)

/-- A command from `s` to `t` that writes the canonical colour `(r, g, b, a)` to CAN_OUT, sets DONE, and
leaves everything else. -/
def CanonDone (s t : State) (r g b a : Nat) : Prop :=
  t = { s with
        canOutRg := t.canOutRg
        canOutBa := t.canOutBa
        status := { s.status with done := true } } ∧
  t.canOutRg.toNat = g * 0x10000 + r ∧ t.canOutBa.toNat = a * 0x10000 + b

/-- A command from `s` to `t` that writes `raw` to RAW_OUT, sets DONE, and leaves everything else. -/
def RawDone (s t : State) (raw : Nat) : Prop :=
  t = { s with rawOut := t.rawOut, status := { s.status with done := true } } ∧ t.rawOut.toNat = raw

/-- `scale(f, W)` (R100). -/
def scaled (m : ScaleMode) (f W : Nat) : Nat :=
  if m = .mulDiv then f * 0xFFFF / W else f * (0xFFFF / W)

/-- `alphaField(A, w)` (R131). -/
def alphaBits (m : EncAlphaBits) (A w : Nat) : Nat :=
  if m = .low then A % 2 ^ w else A / 2 ^ (16 - w)

/-- `field(c, A, w)` with `unp` of R132 in its last branch (R133). -/
def colourBits (c A w : Nat) : Nat :=
  if A = 0xFFFF then c / 2 ^ (16 - w)
  else if A = 0 then 0
  else c * 0xFFFF / A % 0x10000 / 2 ^ (16 - w)

/-- The canonical channels in CAN_IN (R29). -/
def inR (s : State) : Nat := field s.canInRg 15 0

def inG (s : State) : Nat := field s.canInRg 31 16

def inB (s : State) : Nat := field s.canInBa 15 0

def inA (s : State) : Nat := field s.canInBa 31 16

/-- The width of a format in bits (R75). -/
def rawWidth (f : Fmt) : Nat := if f = .r8 then 8 else if f = .bgra8888 then 32 else 16

/-- The reserved-field check of R80 on the fields of a command word. -/
def unusedNonzero (v : Word) : Prop :=
  field v 31 16 ≠ 0 ∨
  (field v 3 0 ∉ [1, 3] ∧ field v 7 4 ≠ 0) ∨
  (field v 3 0 ∉ [2, 3, 4] ∧ field v 11 8 ≠ 0) ∨
  (field v 3 0 ≠ 5 ∧ field v 15 12 ≠ 0)

/-- The format check of R80. -/
def badFormat (v : Word) : Prop :=
  (field v 3 0 ∈ [1, 3] ∧ 5 < field v 7 4) ∨ (field v 3 0 ∈ [2, 3, 4] ∧ 5 < field v 11 8)

/-- The result registers that a command's rule names (R73). -/
def resultRegs : Instr → List Reg
  | .nop => []
  | .decGa88 | .decR8 | .decRgb565 | .decRgba4444 | .decRgba5551 | .decBgra8888 =>
    [.canOutRg, .canOutBa]
  | .encGa88 | .encR8 | .encRgb565 | .encRgba4444 | .encRgba5551 | .encBgra8888 => [.rawOut]
  | .conv _ _ => [.rawOut]
  | .zero _ => [.rawOut, .canOutRg, .canOutBa]
  | .etc1 _ _ => [.rgb8Out, .canOutRg, .canOutBa]

/-- The operand registers that a command's rule names (R27, R101 to R106, R134 to R145, R184, R245). -/
def operandRegs : Instr → List Reg
  | .nop => []
  | .decGa88 | .decR8 | .decRgb565 | .decRgba4444 | .decRgba5551 | .decBgra8888 => [.rawIn]
  | .encR8 => [.canInRg]
  | .encGa88 | .encRgb565 | .encRgba4444 | .encRgba5551 | .encBgra8888 => [.canInRg, .canInBa]
  | .conv _ _ => [.rawIn]
  | .zero _ => []
  | .etc1 _ _ => [.blkIn0, .blkIn1]

/-- The command scales a 5-bit or 6-bit field (R100, R140). -/
def usesScaleMode (i : Instr) : Prop :=
  i = .decRgb565 ∨ i = .decRgba5551 ∨ ∃ f g, i = .conv f g ∧ f ≠ g ∧ f ∈ [.rgb565, .rgba5551]

/-- The command packs an alpha field (R131, R140). -/
def usesEncAlphaBits (i : Instr) : Prop :=
  i ∈ [.encGa88, .encRgba4444, .encRgba5551, .encBgra8888] ∨
  ∃ f g, i = .conv f g ∧ f ≠ g ∧ g ∈ [.ga88, .rgba4444, .rgba5551, .bgra8888]

/-- The command decodes an ETC1 block (R176, R185). -/
def usesEtc1DiffMap (i : Instr) : Prop := ∃ lx ly, i = .etc1 lx ly

/-- `p` and `q` agree on every parameter that governs the command (R8). -/
def agreeOnParamsOf (i : Instr) (p q : Params) : Prop :=
  (usesScaleMode i → p.scaleMode = q.scaleMode) ∧
  (usesEncAlphaBits i → p.encAlphaBits = q.encAlphaBits) ∧
  (usesEtc1DiffMap i → p.etc1DiffMap = q.etc1DiffMap)

/-- The bytes of one stored pixel (R75). -/
def pixelBytes (f : Fmt) : Nat := if f = .r8 then 1 else if f = .bgra8888 then 4 else 2

/-- Byte `k` of a raw value (R57). -/
def rawByte (raw : Word) (k : Nat) : Byte := BitVec.ofNat 8 (field raw (8 * k + 7) (8 * k))

/-! ### One pixel of an ETC1 block, from bit positions of the 64-bit block -/

/-- The block as a number, byte 0 lowest (R31). -/
def blockNat (s : State) : Nat := s.blkIn1.toNat * 2 ^ 32 + s.blkIn0.toNat

/-- `w` bits of the block from bit `n` up; bit `8k + i` is bit `i` of byte `k`. -/
def blockBits (B n w : Nat) : Nat := B / 2 ^ n % 2 ^ w

/-- The pixel's sub-block (R171, R172). -/
def subOf (B lx ly : Nat) : Nat :=
  if blockBits B 24 1 = 1 then (if ly < 2 then 0 else 1) else (if lx < 2 then 0 else 1)

/-- The selector of a sub-block (R173). -/
def selectorOf (B sub : Nat) : Nat := if sub = 0 then blockBits B 29 3 else blockBits B 26 3

/-- The raw index of a pixel (R174). -/
def rawIndexOf (B lx ly : Nat) : Nat :=
  let i := 4 * lx + ly
  if 8 ≤ i then 2 * blockBits B (32 + (i - 8)) 1 + blockBits B (48 + (i - 8)) 1
  else 2 * blockBits B (40 + i) 1 + blockBits B (56 + i) 1

/-- The modifier of a selector and a raw index: `+a`, `+b`, `-a`, `-b` for raw 0 to 3 (R178, R179). -/
def modifierOf (cw rawIdx : Nat) : Int :=
  let small : List Int := [2, 5, 9, 13, 18, 24, 33, 47]
  let large : List Int := [8, 17, 29, 42, 60, 80, 106, 183]
  match rawIdx with
  | 0 => small.getD cw 0
  | 1 => large.getD cw 0
  | 2 => -small.getD cw 0
  | _ => -large.getD cw 0

/-- The 8-bit base value that byte `k` gives a sub-block (R175, R176, R177). -/
def baseOf (B sub k : Nat) : Nat :=
  if blockBits B 25 1 = 1 then
    let f := blockBits B (8 * k + 3) 5
    let d := blockBits B (8 * k) 3
    let v := if sub = 0 then f else (f + d + (if 4 ≤ d then 24 else 0)) % 32
    v * 8 + v / 4
  else if sub = 0 then blockBits B (8 * k + 4) 4 * 17
  else blockBits B (8 * k) 4 * 17

/-- One output channel (R180). -/
def mixed (base : Nat) (d : Int) : Nat := (max 0 (min 255 (base + d))).toNat

/-- The byte that feeds channel `ch` (0 R, 1 G, 2 B): the channel's own, but for the second sub-block of
a differential block under `DOC`, where G and B are swapped (R175, R176). -/
def byteOf (m : Etc1DiffMap) (B sub ch : Nat) : Nat :=
  if blockBits B 25 1 = 1 ∧ sub = 1 ∧ m = .doc then [0, 2, 1].getD ch 0 else ch

/-- Channel `ch` of the pixel at column `lx`, row `ly` (R184). -/
def channelOf (m : Etc1DiffMap) (B lx ly ch : Nat) : Nat :=
  let sub := subOf B lx ly
  mixed (baseOf B sub (byteOf m B sub ch)) (modifierOf (selectorOf B sub) (rawIndexOf B lx ly))

/-- Channel `ch` of the pixel that ETC1 lx, ly gives in state `s`. -/
def pixelChannel (s : State) (lx ly : BitVec 2) (ch : Nat) : Nat :=
  channelOf s.params.etc1DiffMap (blockNat s) lx.toNat ly.toNat ch

end Sys2Proof.Claims

open Sys2Proof.Claims

/-! ### Reset and the invariant -/

/-- On reset every register takes the value 0 that R240 gives it, and DONE = 0 afterwards says that no
command ran. That the parameters, which are not state (R241), stay in State is assumption log 3; that
the events to come and the host's record of its reads stay as they are is the model's own choice,
assumption logs 1 and 5. -/
def Obligations.ResetClearsEveryRegister : Prop :=
  (∀ r : Reg, readReg r State.reset = 0) ∧ State.reset.status = ⟨false, false, none⟩ ∧
  ∀ (s : State) (es : List HostEvent), s.pending = .reset :: es →
    ∃ t, step s = .next t ∧ (∀ r : Reg, readReg r t = 0) ∧ t.status = ⟨false, false, none⟩ ∧
      t.params = s.params ∧ t.pending = es ∧ t.hostReads = s.hostReads

/-- The invariant of Safety.lean holds after reset, whatever the parameters and the events to come
(derived from R23 to R25, R32, R108, R240). -/
def Obligations.InvariantHoldsAtReset : Prop :=
  ∀ (p : Params) (es : List HostEvent), Inv ((State.resetWith p).setPending es)

/-- Every step keeps the invariant: ERR is set exactly while ECODE holds a code, STATUS is about the
word in CMD, CAN_OUT is premultiplied, RGB8_OUT is 0 or opaque (derived from R22 to R25, R32, R108). -/
def Obligations.StepKeepsInvariant : Prop :=
  ∀ s t : State, Inv s → step s = .next t → Inv t

/-! ### Encoding -/

/-- Decoding an instruction's word gives it back, with every operand (derived from R80, R81). -/
def Obligations.DecodeOfEncodeIsTheInstruction : Prop :=
  ∀ i : Instr, decode (encode i) = .ok i

/-- Each legal word is the word of the one instruction it decodes to: no bit is ignored (derived from
R78, R81). -/
def Obligations.EncodeOfDecodeIsTheWord : Prop :=
  ∀ (v : Word) (i : Instr), decode v = .ok i → encode i = v

/-- The procedure of R80 accepts exactly the words whose fields the table of R72 allows. -/
def Obligations.WordIsACommandIffItsFieldsAreLegal : Prop :=
  ∀ v : Word, (∃ i, decode v = .ok i) ↔ (CmdFields.ofWord v).wellFormed = true

/-- The spec's own inference R79: there are 71 legal command words; all others fail. -/
def Obligations.ExactlySeventyOneLegalWords : Prop :=
  (Instr.all.map encode).Nodup ∧ Instr.all.length = 71 ∧
  ∀ v : Word, (∃ i, decode v = .ok i) ↔ v ∈ Instr.all.map encode

/-- Words written out from R81 decode to the instructions they stand for. -/
def Obligations.TableWordsDecode : Prop :=
  decode 0x00000000 = .ok .nop ∧ decode 0x00000031 = .ok .decRgba4444 ∧
  decode 0x00000502 = .ok .encBgra8888 ∧ decode 0x00000533 = .ok (.conv .rgba4444 .bgra8888) ∧
  decode 0x00000204 = .ok (.zero .rgb565) ∧ decode 0x00008005 = .ok (.etc1 0 2) ∧
  decode 0x00003005 = .ok (.etc1 3 0)

/-- R213: "a command word reports exactly one code, the first that applies in the order ILLEGAL_OP, then
RSVD_FIELD, then ILLEGAL_FMT"; and a word to which none applies is a command. -/
def Obligations.CommandWordReportsFirstErrorThatApplies : Prop :=
  ∀ v : Word,
    (6 ≤ field v 3 0 → decode v = .error .illegalOp) ∧
    (¬ 6 ≤ field v 3 0 → unusedNonzero v → decode v = .error .rsvdField) ∧
    (¬ 6 ≤ field v 3 0 → ¬ unusedNonzero v → badFormat v → decode v = .error .illegalFmt) ∧
    (¬ 6 ≤ field v 3 0 → ¬ unusedNonzero v → ¬ badFormat v → ∃ i, decode v = .ok i)

/-- Two instructions with the same source text are the same (derived from R82). -/
def Obligations.AssemblerTextNamesOneInstruction : Prop :=
  ∀ i j : Instr, i.tokens = j.tokens → i = j

/-! ### Steps -/

/-- A step whose event writes the word of a command to CMD stores the word and runs that command (R54,
R80). The queue of events is the model's own form of the host (assumption log 1). -/
def Obligations.StepRunsTheDecodedCommand : Prop :=
  ∀ (s : State) (es : List HostEvent) (v : Word) (i : Instr),
    s.pending = .write 0x00 4 v :: es → decode v = .ok i →
      step s = exec i { s with pending := es, cmd := v }

/-- A placed instruction is the one that the next step runs (the model's own interface, assumption
log 17). -/
def Obligations.PlacedInstructionRunsNext : Prop :=
  ∀ (s : State) (i : Instr),
    step (s.withFetchWord 32 (encode i).toNat) = exec i { s with cmd := encode i } ∧
    decodeTableWord 32 (encode i).toNat = some i

/-- R211: a failed command changes DONE, ERR and ECODE "and writes no other register" than those; CMD
holds the word since the write itself (R54). -/
def Obligations.FailedCommandWritesStatusAlone : Prop :=
  ∀ (s : State) (es : List HostEvent) (v : Word) (e : CmdError),
    s.pending = .write 0x00 4 v :: es → decode v = .error e →
      step s = .next { s with pending := es, cmd := v, status := ⟨false, true, some e⟩ }

/-- With no event pending the unit holds its registers (the model's own choice, assumption log 2, from
R224: "between commands it holds its registers"). -/
def Obligations.IdleUnitHoldsItsRegisters : Prop :=
  ∀ s : State, s.pending = [] → step s = .next s

/-- Events are taken one at a time in the order they were issued (derived from R65; the queue is the
model's own, assumption log 1). -/
def Obligations.EventsAreTakenInIssueOrder : Prop :=
  ∀ s t : State, step s = .next t → t.pending = s.pending.tail

/-- No step and no reset changes a parameter (derived from R241; that State carries them is the model's
own choice, assumption log 3). -/
def Obligations.StepKeepsTheParameters : Prop :=
  ∀ s t : State, step s = .next t → t.params = s.params

/-- A run of supported accesses and resets never stops, in any state and for any number of steps
(derived from R214, R215, R52). -/
def Obligations.SupportedRunNeverStops : Prop :=
  ∀ (s : State) (k : Nat), s.safe = true → ∃ t, Sys2Proof.core.run k s = .next t ∧ t.safe = true

/-- R52: an access has a meaning exactly when it is aligned, 32 bits wide and inside the window; one that
runs into the window from below is refused as well. -/
def Obligations.OtherAccessesAreRefused : Prop :=
  ∀ (s : State) (es : List HostEvent),
    (∀ (off size : Nat) (v : Word) (e : HostEvent),
      s.pending = e :: es → e = .read off size ∨ e = .write off size v →
        (¬ (off % 4 = 0 ∧ off < 0x40 ∧ size = 4) → step s = .refused .unsupportedAccess) ∧
        (off % 4 = 0 ∧ off < 0x40 ∧ size = 4 → ∃ t, step s = .next t)) ∧
    (s.pending = .straddlingAccess :: es → step s = .refused .unsupportedAccess)

/-- A second host, and an access concurrent with reset, are refused (R222, R243). -/
def Obligations.SecondHostAndAccessDuringResetAreRefused : Prop :=
  ∀ (s : State) (es : List HostEvent),
    (s.pending = .secondHostAccess :: es → step s = .refused .secondHost) ∧
    (s.pending = .accessDuringReset :: es → step s = .refused .accessDuringReset)

/-! ### Host accesses -/

/-- STATUS as a number: DONE + 2 ERR + 16 ECODE, with the codes of R210; reserved bits 0 (R23). -/
def Obligations.StatusReadsItsFields : Prop :=
  ∀ s : State, (readReg .status s).toNat =
    (if s.status.done then 1 else 0) + (if s.status.err then 2 else 0) +
      16 * (match s.status.ecode with
        | none => 0
        | some .illegalOp => 1
        | some .rsvdField => 2
        | some .illegalFmt => 3)

/-- A host read returns the current value of the register at its offset, 0 for a reserved slot, and has no
side effect on any register (derived from R53). Where the returned value goes, the head of the list
`hostReads`, is the model's own choice (assumption log 5), and so is the queue (log 1). -/
def Obligations.HostReadReturnsTheRegister : Prop :=
  ∀ (s : State) (es : List HostEvent) (off : Nat) (v : Word), s.pending = .read off 4 :: es →
    (off, v) ∈ [(0x00, s.cmd), (0x04, readReg .status s), (0x08, s.rawIn), (0x0C, s.rawOut),
      (0x10, s.canInRg), (0x14, s.canInBa), (0x18, s.canOutRg), (0x1C, s.canOutBa),
      (0x20, s.blkIn0), (0x24, s.blkIn1), (0x28, s.rgb8Out), (0x2C, 0), (0x30, 0), (0x34, 0),
      (0x38, 0), (0x3C, 0)] →
    step s = .next { s with pending := es, hostReads := v :: s.hostReads }

/-- R54, the host write by target. -/
def Obligations.HostWriteByTarget : Prop :=
  ∀ (s : State) (es : List HostEvent) (off : Nat) (v : Word), s.pending = .write off 4 v :: es →
    (off = 0x00 → step s = execute v { s with pending := es, cmd := v }) ∧
    (off = 0x04 → step s = .next (statusWrite v { s with pending := es })) ∧
    (off = 0x08 → step s = .next { s with pending := es, rawIn := v }) ∧
    (off = 0x10 → step s = .next { s with pending := es, canInRg := v }) ∧
    (off = 0x14 → step s = .next { s with pending := es, canInBa := v }) ∧
    (off = 0x20 → step s = .next { s with pending := es, blkIn0 := v }) ∧
    (off = 0x24 → step s = .next { s with pending := es, blkIn1 := v }) ∧
    (off ∈ [0x0C, 0x18, 0x1C, 0x28] → step s = .next { s with pending := es }) ∧
    (off ∈ [0x2C, 0x30, 0x34, 0x38, 0x3C] → step s = .next { s with pending := es })

/-- R201: a STATUS write whose bit 1 is set clears ERR and ECODE and nothing else; any other value
changes nothing; CLRERR is the write of 0x00000002. -/
def Obligations.StatusWriteClearsErrorAlone : Prop :=
  HostStmt.clrErr.event = .write 0x04 4 0x00000002 ∧
  ∀ (s : State) (es : List HostEvent) (v : Word), s.pending = .write 0x04 4 v :: es →
    (field v 1 1 = 1 →
      step s = .next { s with pending := es, status := ⟨s.status.done, false, none⟩ }) ∧
    (field v 1 1 = 0 → step s = .next { s with pending := es })

/-- R24: DONE is written by every command, 1 when it completes and 0 when it fails; "No other event
writes it except reset". -/
def Obligations.DoneIsWrittenByCommandsAndResetOnly : Prop :=
  ∀ s t : State, step s = .next t →
    (∀ v es i, s.pending = .write 0x00 4 v :: es → decode v = .ok i → t.status.done = true) ∧
    (∀ v es e, s.pending = .write 0x00 4 v :: es → decode v = .error e → t.status.done = false) ∧
    (∀ es, s.pending = .reset :: es → t.status.done = false) ∧
    ((∀ v es, s.pending ≠ .write 0x00 4 v :: es) → (∀ es, s.pending ≠ .reset :: es) →
      t.status.done = s.status.done)

/-- R25: ERR and ECODE are written by a failed command (the newest code replacing an older one) and by
the host clear, and by reset (R23, R240); a successful command leaves both unchanged, and so does every
other event; and ERR being 1 stops no later command. -/
def Obligations.ErrorBitsAreWrittenByFailureClearAndResetOnly : Prop :=
  (∀ (s : State) (i : Instr), s.status.err = true → ∃ t, exec i s = .next t) ∧
  ∀ s t : State, step s = .next t →
    (∀ v es e, s.pending = .write 0x00 4 v :: es → decode v = .error e →
      t.status.err = true ∧ t.status.ecode = some e) ∧
    (∀ v es, s.pending = .write 0x04 4 v :: es → field v 1 1 = 1 →
      t.status.err = false ∧ t.status.ecode = none) ∧
    (∀ es, s.pending = .reset :: es → t.status.err = false ∧ t.status.ecode = none) ∧
    ((∀ v es e, s.pending = .write 0x00 4 v :: es → decode v ≠ .error e) →
      (∀ v es, s.pending = .write 0x04 4 v :: es → field v 1 1 = 0) →
      (∀ es, s.pending ≠ .reset :: es) →
      t.status.err = s.status.err ∧ t.status.ecode = s.status.ecode)

/-- R56: repeating a host access, whatever it is, leaves every register as the first one left it, and a
read has no side effect. -/
def Obligations.RepeatedAccessChangesNoRegister : Prop :=
  ∀ (s t : State) (e : HostEvent) (es : List HostEvent), s.pending = e :: e :: es → step s = .next t →
    (∃ u, step t = .next u ∧ ∀ r : Reg, readReg r u = readReg r t) ∧
    (∀ off size, e = .read off size → ∀ r : Reg, readReg r t = readReg r s)

/-- A host access by bus address reaches the register at its distance from the base of the window, after
the accesses issued before it; one that runs into the window from below is issued too, and is refused
when its turn comes (R52); one with no byte in the window reaches nothing. This holds for a window at
any base, and the platform's `UNIT_BASE` is one that is 64-byte aligned (derived from R51, R52, R65;
assumption log 4). -/
def Obligations.BusAddressReachesTheWindowOffset : Prop :=
  Config.unitBase % 64 = 0 ∧
  ∀ (s : State) (base addr size : Nat) (v : Word),
    (base = Config.unitBase →
      busRead addr size s = busReadAt base addr size s ∧
      busWrite addr size v s = busWriteAt base addr size v s) ∧
    (∀ off, off < 0x40 → addr = base + off →
      busReadAt base addr size s = { s with pending := s.pending ++ [.read off size] } ∧
      busWriteAt base addr size v s = { s with pending := s.pending ++ [.write off size v] }) ∧
    (addr < base → base < addr + size →
      busReadAt base addr size s = { s with pending := s.pending ++ [.straddlingAccess] } ∧
      busWriteAt base addr size v s = { s with pending := s.pending ++ [.straddlingAccess] } ∧
      (s.pending = [] → step (busReadAt base addr size s) = .refused .unsupportedAccess ∧
        step (busWriteAt base addr size v s) = .refused .unsupportedAccess)) ∧
    (addr < base → addr + size ≤ base →
      busReadAt base addr size s = s ∧ busWriteAt base addr size v s = s) ∧
    (base + 0x40 ≤ addr → busReadAt base addr size s = s ∧ busWriteAt base addr size v s = s)

/-! ### Commands: what they write and what they read -/

/-- R33: a command writes only the result registers its rule names; every other register keeps its value,
the input registers among them, and a failed command writes no result register. The last two clauses
are the frame beyond the registers. -/
def Obligations.CommandWritesOnlyItsResults : Prop :=
  (∀ (i : Instr) (s t : State), exec i s = .next t →
    (∀ r : Reg, r ∉ resultRegs i → r ≠ .status → readReg r t = readReg r s) ∧
    t.rawIn = s.rawIn ∧ t.canInRg = s.canInRg ∧ t.canInBa = s.canInBa ∧
    t.blkIn0 = s.blkIn0 ∧ t.blkIn1 = s.blkIn1 ∧
    t.status = { s.status with done := true } ∧
    t.params = s.params ∧ t.pending = s.pending ∧ t.hostReads = s.hostReads) ∧
  (∀ (s t : State) (v : Word) (es : List HostEvent) (e : CmdError),
    s.pending = .write 0x00 4 v :: es → decode v = .error e → step s = .next t →
    ∀ r : Reg, r ≠ .cmd → r ≠ .status → readReg r t = readReg r s)

/-- No command reads STATUS: with any other STATUS before it, a command does the same to every other
register (derived from R26). -/
def Obligations.CommandsDoNotReadStatus : Prop :=
  ∀ (i : Instr) (s t : State) (st : Status), exec i s = .next t →
    exec i { s with status := st } = .next { t with status := { st with done := true } }

/-- A command's results depend on its own operand registers and the parameters that govern it alone: two
units that agree on those get the same results, whatever else they hold (derived from the spec's
inference R185 for ETC1, from R145 for ZERO and from R8 and R245). -/
def Obligations.ResultsDependOnOperandsAlone : Prop :=
  ∀ (i : Instr) (s s' t t' : State),
    (∀ r ∈ operandRegs i, readReg r s = readReg r s') → agreeOnParamsOf i s.params s'.params →
    exec i s = .next t → exec i s' = .next t' →
    ∀ r ∈ resultRegs i, readReg r t = readReg r t'

/-- R200, NOP. -/
def Obligations.NopCompletesWithoutEffect : Prop :=
  decode 0x00000000 = .ok .nop ∧
  (∀ v : Word, field v 3 0 = 0 → v ≠ 0 → decode v = .error .rsvdField) ∧
  ∀ s : State, exec .nop s = .next { s with status := { s.status with done := true } }

/-! ### Packed decode -/

/-- R101, DEC.GA88. -/
def Obligations.DecGa88Result : Prop :=
  decode 0x00000001 = .ok .decGa88 ∧
  ∀ s : State, ∃ t, exec .decGa88 s = .next t ∧
    CanonDone s t
      (field s.rawIn 7 0 * 0x101 * field s.rawIn 15 8 / 0xFF)
      (field s.rawIn 7 0 * 0x101 * field s.rawIn 15 8 / 0xFF)
      (field s.rawIn 7 0 * 0x101 * field s.rawIn 15 8 / 0xFF)
      (field s.rawIn 15 8 * 0x101)

/-- R102, DEC.R8. -/
def Obligations.DecR8Result : Prop :=
  decode 0x00000011 = .ok .decR8 ∧
  ∀ s : State, ∃ t, exec .decR8 s = .next t ∧ CanonDone s t (field s.rawIn 7 0 * 0x101) 0 0 0xFFFF

/-- R103 with the scale of R100, DEC.RGB565. -/
def Obligations.DecRgb565Result : Prop :=
  decode 0x00000021 = .ok .decRgb565 ∧
  ∀ s : State, ∃ t, exec .decRgb565 s = .next t ∧
    CanonDone s t
      (scaled s.params.scaleMode (field s.rawIn 15 11) 0x1F)
      (scaled s.params.scaleMode (field s.rawIn 10 5) 0x3F)
      (scaled s.params.scaleMode (field s.rawIn 4 0) 0x1F)
      0xFFFF

/-- R104, DEC.RGBA4444. -/
def Obligations.DecRgba4444Result : Prop :=
  decode 0x00000031 = .ok .decRgba4444 ∧
  ∀ s : State, ∃ t, exec .decRgba4444 s = .next t ∧
    CanonDone s t
      (field s.rawIn 15 12 * 0x1111 * field s.rawIn 3 0 / 0xF)
      (field s.rawIn 11 8 * 0x1111 * field s.rawIn 3 0 / 0xF)
      (field s.rawIn 7 4 * 0x1111 * field s.rawIn 3 0 / 0xF)
      (field s.rawIn 3 0 * 0x1111)

/-- DEC.RGBA5551. The field positions are the spec's own, "from general knowledge, not in source"
(R105; assumption log 12), so no rule is cited for them. -/
def Obligations.DecRgba5551Result : Prop :=
  decode 0x00000041 = .ok .decRgba5551 ∧
  ∀ s : State, ∃ t, exec .decRgba5551 s = .next t ∧
    (field s.rawIn 0 0 = 0 → CanonDone s t 0 0 0 0) ∧
    (field s.rawIn 0 0 = 1 →
      CanonDone s t
        (scaled s.params.scaleMode (field s.rawIn 15 11) 0x1F)
        (scaled s.params.scaleMode (field s.rawIn 10 6) 0x1F)
        (scaled s.params.scaleMode (field s.rawIn 5 1) 0x1F)
        0xFFFF)

/-- R106, DEC.BGRA8888. -/
def Obligations.DecBgra8888Result : Prop :=
  decode 0x00000051 = .ok .decBgra8888 ∧
  ∀ s : State, ∃ t, exec .decBgra8888 s = .next t ∧
    CanonDone s t
      (field s.rawIn 23 16 * 0x101 * field s.rawIn 31 24 / 0xFF)
      (field s.rawIn 15 8 * 0x101 * field s.rawIn 31 24 / 0xFF)
      (field s.rawIn 7 0 * 0x101 * field s.rawIn 31 24 / 0xFF)
      (field s.rawIn 31 24 * 0x101)

/-- The spec's own inference R108: every decoded colour is premultiplied, whatever the raw value and the
scale mode; and so is the colour of every ETC1 pixel (R181) and of every zero value (R145). -/
def Obligations.ColoursWrittenArePremultiplied : Prop :=
  ∀ (i : Instr) (s t : State), exec i s = .next t → .canOutRg ∈ resultRegs i →
    field t.canOutRg 15 0 ≤ field t.canOutBa 31 16 ∧
    field t.canOutRg 31 16 ≤ field t.canOutBa 31 16 ∧
    field t.canOutBa 15 0 ≤ field t.canOutBa 31 16

/-! ### Packed encode -/

/-- R134, ENC.GA88. -/
def Obligations.EncGa88Result : Prop :=
  decode 0x00000002 = .ok .encGa88 ∧
  ∀ s : State, ∃ t, exec .encGa88 s = .next t ∧
    RawDone s t (if inA s = 0 then 0
      else alphaBits s.params.encAlphaBits (inA s) 8 * 0x100 + colourBits (inR s) (inA s) 8)

/-- R135, ENC.R8. -/
def Obligations.EncR8Result : Prop :=
  decode 0x00000102 = .ok .encR8 ∧
  ∀ s : State, ∃ t, exec .encR8 s = .next t ∧ RawDone s t (field s.canInRg 15 8)

/-- R136, ENC.RGB565. -/
def Obligations.EncRgb565Result : Prop :=
  decode 0x00000202 = .ok .encRgb565 ∧
  ∀ s : State, ∃ t, exec .encRgb565 s = .next t ∧
    RawDone s t (inR s / 2 ^ 11 * 2 ^ 11 + inG s / 2 ^ 10 * 2 ^ 5 + inB s / 2 ^ 11)

/-- R137, ENC.RGBA4444. -/
def Obligations.EncRgba4444Result : Prop :=
  decode 0x00000302 = .ok .encRgba4444 ∧
  ∀ s : State, ∃ t, exec .encRgba4444 s = .next t ∧
    RawDone s t (if inA s = 0 then 0
      else colourBits (inR s) (inA s) 4 * 2 ^ 12 + colourBits (inG s) (inA s) 4 * 2 ^ 8 +
        colourBits (inB s) (inA s) 4 * 2 ^ 4 + alphaBits s.params.encAlphaBits (inA s) 4)

/-- ENC.RGBA5551. The field positions are the spec's own, as in R105 (assumption log 12), so no rule is
cited for them. -/
def Obligations.EncRgba5551Result : Prop :=
  decode 0x00000402 = .ok .encRgba5551 ∧
  ∀ s : State, ∃ t, exec .encRgba5551 s = .next t ∧
    RawDone s t (inR s / 2 ^ 11 * 2 ^ 11 + inG s / 2 ^ 11 * 2 ^ 6 + inB s / 2 ^ 11 * 2 +
      alphaBits s.params.encAlphaBits (inA s) 1)

/-- R139, ENC.BGRA8888. -/
def Obligations.EncBgra8888Result : Prop :=
  decode 0x00000502 = .ok .encBgra8888 ∧
  ∀ s : State, ∃ t, exec .encBgra8888 s = .next t ∧
    RawDone s t (if inA s = 0 then 0
      else alphaBits s.params.encAlphaBits (inA s) 8 * 2 ^ 24 + colourBits (inR s) (inA s) 8 * 2 ^ 16 +
        colourBits (inG s) (inA s) 8 * 2 ^ 8 + colourBits (inB s) (inA s) 8)

/-! ### Convert and zero -/

/-- R140, CONV: the identity shortcut where the formats are equal; elsewhere what DEC.s, moving CAN_OUT to
CAN_IN, and ENC.d would leave in RAW_OUT, with CAN_OUT untouched. -/
def Obligations.ConvIsIdentityOrDecodeThenEncode : Prop :=
  ∀ (f g : Fmt) (s : State),
    decode (BitVec.ofNat 32 (0x3 + f.code * 2 ^ 4 + g.code * 2 ^ 8)) = .ok (.conv f g) ∧
    (f = g → ∃ t, exec (.conv f g) s = .next t ∧ RawDone s t (s.rawIn.toNat % 2 ^ rawWidth f)) ∧
    (f ≠ g → ∃ t u v, exec (.decOf f) s = .next t ∧
      exec (.encOf g) { s with canInRg := t.canOutRg, canInBa := t.canOutBa } = .next u ∧
      exec (.conv f g) s = .next v ∧ RawDone s v u.rawOut.toNat)

/-- R145, ZERO: raw 0, and its decode, which is opaque black for R8 and RGB565 and all zero for the
others. -/
def Obligations.ZeroWritesTheZeroValueAndItsColour : Prop :=
  ∀ (f : Fmt) (s : State),
    decode (BitVec.ofNat 32 (0x4 + f.code * 2 ^ 8)) = .ok (.zero f) ∧
    exec (.zero f) s = .next { s with
      rawOut := 0
      canOutRg := 0
      canOutBa := if f = .r8 ∨ f = .rgb565 then 0xFFFF0000 else 0
      status := { s.status with done := true } }

/-! ### Round trips -/

/-- The spec's own inference R146, for the formats without loss: a raw value of RGB565 or R8 survives
decode and encode, under every parameter. -/
def Obligations.RoundTripOfRgb565AndR8IsExact : Prop :=
  ∀ (p : Params) (raw : Word),
    (encodeFmt p .rgb565 (decodeFmt p .rgb565 raw)).toNat = raw.toNat % 2 ^ 16 ∧
    (encodeFmt p .r8 (decodeFmt p .r8 raw)).toNat = raw.toNat % 2 ^ 8

/-- The spec's own inference R146, for RGBA4444: the round trip fails exactly for alpha nibble 0 with a
nonzero colour. -/
def Obligations.RoundTripOfRgba4444FailsOnlyAtAlphaZero : Prop :=
  ∀ (p : Params) (raw : Word),
    (encodeFmt p .rgba4444 (decodeFmt p .rgba4444 raw)).toNat = raw.toNat % 2 ^ 16 ↔
      (raw.toNat % 2 ^ 4 ≠ 0 ∨ raw.toNat % 2 ^ 16 = 0)

/-- The spec's own inference R146, for RGBA5551: the round trip fails exactly for bit 0 clear, 0 apart. -/
def Obligations.RoundTripOfRgba5551FailsOnlyAtAlphaZero : Prop :=
  ∀ (p : Params) (raw : Word),
    (encodeFmt p .rgba5551 (decodeFmt p .rgba5551 raw)).toNat = raw.toNat % 2 ^ 16 ↔
      (raw.toNat % 2 = 1 ∨ raw.toNat % 2 ^ 16 = 0)

/-- The 8-bit alpha formats survive the round trip at full alpha, "for every colour with A = 0xFFFF"
(90_conflicts.md C4). -/
def Obligations.RoundTripAtFullAlphaIsExact : Prop :=
  ∀ (p : Params) (raw : Word),
    (field raw 15 8 = 0xFF →
      (encodeFmt p .ga88 (decodeFmt p .ga88 raw)).toNat = raw.toNat % 2 ^ 16) ∧
    (field raw 31 24 = 0xFF → encodeFmt p .bgra8888 (decodeFmt p .bgra8888 raw) = raw)

/-- The spec's own inference R148: the source's bound of one quantization step per channel "also holds
for RGB565 on every colour", the step being 0x0842 for 5 bits and 0x0410 for 6. -/
def Obligations.Rgb565LosesAtMostOneStep : Prop :=
  ∀ (p : Params) (c : Color),
    let c' := decodeFmt p .rgb565 (encodeFmt p .rgb565 c)
    ((c'.r.toNat : Int) - c.r.toNat).natAbs ≤ 0x0842 ∧
    ((c'.g.toNat : Int) - c.g.toNat).natAbs ≤ 0x0410 ∧
    ((c'.b.toNat : Int) - c.b.toNat).natAbs ≤ 0x0842

/-- The spec's own inference R147: at `A = 0` the formats with independent alpha encode to 0; at
`A = 0xFFFF` each of their fields is the channel's high bits; and the colour fields of RGB565, RGBA5551
and R8 never depend on A. -/
def Obligations.AlphaCornerLaws : Prop :=
  ∀ (p : Params) (c : Color),
    (c.a = 0 → encodeFmt p .rgba4444 c = 0 ∧ encodeFmt p .bgra8888 c = 0 ∧ encodeFmt p .ga88 c = 0) ∧
    (c.a = 0xFFFF →
      (encodeFmt p .rgba4444 c).toNat = c.r.toNat / 2 ^ 12 * 2 ^ 12 + c.g.toNat / 2 ^ 12 * 2 ^ 8 +
        c.b.toNat / 2 ^ 12 * 2 ^ 4 + 0xF ∧
      (encodeFmt p .bgra8888 c).toNat = 0xFF * 2 ^ 24 + c.r.toNat / 2 ^ 8 * 2 ^ 16 +
        c.g.toNat / 2 ^ 8 * 2 ^ 8 + c.b.toNat / 2 ^ 8 ∧
      (encodeFmt p .ga88 c).toNat = 0xFF * 2 ^ 8 + c.r.toNat / 2 ^ 8) ∧
    (∀ a : Channel,
      encodeFmt p .rgb565 { c with a := a } = encodeFmt p .rgb565 c ∧
      encodeFmt p .r8 { c with a := a } = encodeFmt p .r8 c ∧
      (encodeFmt p .rgba5551 { c with a := a }).toNat / 2 = (encodeFmt p .rgba5551 c).toNat / 2)

/-! ### ETC1 -/

/-- ETC1: the whole decompressor in bit positions of the block. The index planes and the modifier table's
rows 1 to 6 and column order are the spec's own, "from general knowledge, not in source" (R174, R179;
assumption log 12), so no rule is cited for them. -/
def Obligations.Etc1PixelResult : Prop :=
  ∀ (lx ly : BitVec 2) (s : State),
    decode (BitVec.ofNat 32 (0x5 + lx.toNat * 2 ^ 12 + ly.toNat * 2 ^ 14)) = .ok (.etc1 lx ly) ∧
    ∃ t, exec (.etc1 lx ly) s = .next t ∧
      t = { s with
            rgb8Out := t.rgb8Out
            canOutRg := t.canOutRg
            canOutBa := t.canOutBa
            status := { s.status with done := true } } ∧
      t.rgb8Out.toNat = 0xFF * 2 ^ 24 + pixelChannel s lx ly 2 * 2 ^ 16 +
        pixelChannel s lx ly 1 * 2 ^ 8 + pixelChannel s lx ly 0 ∧
      t.canOutRg.toNat = pixelChannel s lx ly 1 * 0x101 * 0x10000 + pixelChannel s lx ly 0 * 0x101 ∧
      t.canOutBa.toNat = 0xFFFF * 0x10000 + pixelChannel s lx ly 2 * 0x101

/-- R177: the delta sum of a differential byte is its 5-bit field plus its signed 3-bit delta, mod 32. -/
def Obligations.DifferentialSumWrapsMod32 : Prop :=
  ∀ b : Byte,
    (sum5 b : Int) = (b.toNat / 8 + (if b.toNat % 8 < 4 then (b.toNat % 8 : Int) else b.toNat % 8 - 8)) % 32

/-! ### Operands from host memory -/

/-- Byte `k` of a stored pixel is bits `[8k+7:8k]` of its raw value (derived from R57), and byte `k` of a
stored block is block byte `k` of the two registers it is loaded into (derived from R31, R58). -/
def Obligations.StoredBytesLieLittleEndian : Prop :=
  (∀ (bytes : List Byte) (k : Nat) (h : k < bytes.length), bytes.length ≤ 4 →
    field (rawOfBytes bytes) (8 * k + 7) (8 * k) = bytes[k].toNat) ∧
  ∀ (s : State) (bytes : List Byte) (k : Nat) (h : k < bytes.length), bytes.length = 8 →
    blockByte (blockIn { s with blkIn0 := (blkInOfBytes bytes).1, blkIn1 := (blkInOfBytes bytes).2 }) k
      = bytes[k]

/-- A pixel outside the Rectangle is not read and not written, in a planar and in a block-compressed image
(derived from R63): a planar query answers the colour that ZERO leaves in CAN_OUT, and a block query
the codec's zero colour, which no rule states and the model leaves free (assumption log 20). For both
readings of the max edge (assumption log 14). The last line is the spec's example (95_test_vectors.md
section 6). -/
def Obligations.PixelOutsideTheImageTouchesNothing : Prop :=
  (∀ (r : Rectangle) (x y : Int), r.wf = true →
    (r.contains .outside x y = true ↔ r.minX ≤ x ∧ x < r.maxX ∧ r.minY ≤ y ∧ y < r.maxY) ∧
    (r.contains .inside x y = true ↔ r.minX ≤ x ∧ x ≤ r.maxX ∧ r.minY ≤ y ∧ y ≤ r.maxY)) ∧
  (∀ (e : MaxEdge) (im : PlanarImage) (x y : Int) (raw : Word), im.rect.contains e x y = false →
    im.raw? e x y = none ∧ im.setRaw e x y raw = im ∧
    ∀ s : State, ∃ t, exec (.zero im.fmt) s = .next t ∧ canOut t = im.pixelAt s.params e x y) ∧
  (∀ (m : Etc1DiffMap) (e : MaxEdge) (im : BlockImage) (x y : Int), im.rect.contains e x y = false →
    im.operands? e x y = none ∧
    ((im.pixelAt m e x y).r, (im.pixelAt m e x y).g, (im.pixelAt m e x y).b, (im.pixelAt m e x y).a) =
      Config.blockZeroColour) ∧
  blockGrid 6 5 = (2, 2) ∧ blockPayload 6 5 = 32 ∧ blockOffset 6 5 4 = 24 ∧ localCoords 5 4 = (1, 0)

/-- The block layout of every image and every pixel in it (derived from the spec's inferences R61 and R64,
and from R58): the grid is the least that covers the image, the block of a pixel lies whole in the
payload, its bytes are those of the two registers, and no two pixels share a block and coordinates. -/
def Obligations.BlockLayoutOfEveryPixel : Prop :=
  ∀ width height : Nat,
    let g := blockGrid width height
    (width ≤ 4 * g.1 ∧ 4 * g.1 < width + 4) ∧ (height ≤ 4 * g.2 ∧ 4 * g.2 < height + 4) ∧
    blockPayload width height = g.1 * g.2 * 8 ∧
    ∀ x y : Nat, x < width → y < height →
      let off := blockOffset width x y
      let l := localCoords x y
      off = (y / 4 * g.1 + x / 4) * 8 ∧ off + 8 ≤ blockPayload width height ∧
      l.1.toNat = x % 4 ∧ l.2.toNat = y % 4 ∧
      (∀ x' y' : Nat, x' < width → y' < height →
        blockOffset width x' y' = off → localCoords x' y' = l → x' = x ∧ y' = y) ∧
      ∀ (s : State) (payload : List Byte) (k : Nat), payload.length = blockPayload width height →
        k < 8 →
        payload[off + k]? = some (blockByte (blockIn { s with
          blkIn0 := (blockOperands payload width x y).1
          blkIn1 := (blockOperands payload width x y).2 }) k)

/-- A new planar image is zero (derived from R60). That its buffer is exactly as long as the payload of
the spec's inference R64 is the model's own choice, no rule: R60 gives a buffer of at least stride
times height and no stride for a new image, and assumption log 14 packs its rows. The RAW_IN value of
a pixel inside the Rectangle is the bytes at its offset, which lie in the buffer where the rows do not
overlap (derived from R57, R60). Both readings of the max edge (assumption log 14). -/
def Obligations.PlanarPixelLiesAtItsOffset : Prop :=
  (∀ (e : MaxEdge) (r : Rectangle) (f : Fmt),
    (PlanarImage.new e r f).buffer.length = (r.size e).1 * (r.size e).2 * pixelBytes f ∧
    ∀ b ∈ (PlanarImage.new e r f).buffer, b = 0) ∧
  ∀ (e : MaxEdge) (im : PlanarImage) (x y : Int), im.rect.contains e x y = true →
    let off := (im.pixelOffset x y).toNat
    (off : Int) = (y - im.rect.minY) * im.stride + (x - im.rect.minX) * pixelBytes im.fmt ∧
    (im.wf e = true → (im.rect.size e).1 * pixelBytes im.fmt ≤ im.stride →
      off + pixelBytes im.fmt ≤ im.buffer.length) ∧
    (off + pixelBytes im.fmt ≤ im.buffer.length →
      ∃ raw, im.raw? e x y = some raw ∧ raw.toNat < 2 ^ (8 * pixelBytes im.fmt) ∧
        ∀ k < pixelBytes im.fmt, im.buffer[off + k]? = some (rawByte raw k))

/-- Setting a pixel inside the Rectangle stores its bytes at its offset and changes no other byte (derived
from R57, R60). -/
def Obligations.SetPixelStoresItsBytesAlone : Prop :=
  ∀ (e : MaxEdge) (im : PlanarImage) (x y : Int) (raw : Word), im.rect.contains e x y = true →
    let off := (im.pixelOffset x y).toNat
    let im' := im.setRaw e x y raw
    off + pixelBytes im.fmt ≤ im.buffer.length →
      im' = { im with buffer := im'.buffer } ∧ im'.buffer.length = im.buffer.length ∧
      (∀ k < pixelBytes im.fmt, im'.buffer[off + k]? = some (rawByte raw k)) ∧
      ∀ n, n < off ∨ off + pixelBytes im.fmt ≤ n → im'.buffer[n]? = im.buffer[n]?

/-- A pixel inside the Rectangle of an image is the colour that the unit leaves in CAN_OUT once the host has
loaded the pixel's operands and run the command (derived from R60, R61, R63, R181); in a
block-compressed image those are the block and the coordinates of the pixel's distance from the
Rectangle's min corner (assumption log 20). Both readings of the max edge (assumption log 14). -/
def Obligations.PixelInsideTheImageIsWhatTheCommandWrites : Prop :=
  (∀ (e : MaxEdge) (im : PlanarImage) (x y : Int) (s : State), im.rect.contains e x y = true →
    ∃ raw t, im.raw? e x y = some raw ∧ exec (.decOf im.fmt) { s with rawIn := raw } = .next t ∧
      canOut t = im.pixelAt s.params e x y) ∧
  ∀ (e : MaxEdge) (im : BlockImage) (x y : Int) (s : State), im.rect.contains e x y = true →
    ∃ (px py : Nat) (w0 w1 : Word) (lx ly : BitVec 2) (t : State),
      (px : Int) = x - im.rect.minX ∧ (py : Int) = y - im.rect.minY ∧
      px < (im.rect.size e).1 ∧ py < (im.rect.size e).2 ∧
      (w0, w1) = blockOperands im.payload (im.rect.size e).1 px py ∧ (lx, ly) = localCoords px py ∧
      im.operands? e x y = some ((w0, w1), (lx, ly)) ∧
      exec (.etc1 lx ly) { s with blkIn0 := w0, blkIn1 := w1 } = .next t ∧
      canOut t = im.pixelAt s.params.etc1DiffMap e x y
end

