-- ==== Sys2Proof/Laws/Operands.lean ====
section
/-! SUPPORT. What the operand helpers compute, as arithmetic on natural numbers. -/

namespace Sys2Proof.Machine

theorem bits_eq {n : Nat} (v : BitVec n) (hi lo : Nat) :
    bits v hi lo = v.toNat / 2 ^ lo % 2 ^ (hi - lo + 1) := by
  simp [bits, BitVec.extractLsb_toNat, Nat.shiftRight_eq_div_pow]

theorem bits_lt {n : Nat} (v : BitVec n) (hi lo : Nat) : bits v hi lo < 2 ^ (hi - lo + 1) :=
  (v.extractLsb hi lo).isLt

theorem topBits_toNat (w : Nat) (c : Channel) :
    (topBits w c).toNat = c.toNat / 2 ^ (16 - w) % 2 ^ w := by
  simp [topBits, BitVec.extractLsb'_toNat, Nat.shiftRight_eq_div_pow]

theorem topBits_toNat_of_le {w : Nat} (h : w ≤ 16) (c : Channel) :
    (topBits w c).toNat = c.toNat / 2 ^ (16 - w) := by
  rw [topBits_toNat, Nat.mod_eq_of_lt]
  rw [Nat.div_lt_iff_lt_mul (by positivity), ← pow_add]
  simpa [h] using c.isLt

theorem rawField_toNat (f : Fmt) (raw : Word) :
    (rawField f raw).toNat = raw.toNat % 2 ^ f.width := by
  simpa [rawField] using lt_of_le_of_lt (Nat.mod_le _ (2 ^ f.width)) raw.isLt

theorem blockByte_toNat (blk : Block) (k : Nat) :
    (blockByte blk k).toNat = blk.toNat / 2 ^ (8 * k) % 256 := by
  simp [blockByte, BitVec.extractLsb'_toNat, Nat.shiftRight_eq_div_pow]

/-- `a` above `b`, as numbers. -/
theorem append_toNat {n m : Nat} (a : BitVec n) (b : BitVec m) :
    (a ++ b).toNat = a.toNat * 2 ^ m + b.toNat := by
  rw [BitVec.toNat_append, ← Nat.shiftLeft_add_eq_or_of_lt b.isLt, Nat.shiftLeft_eq]

theorem rg_toNat (c : Color) : c.rg.toNat = c.g.toNat * 2 ^ 16 + c.r.toNat := append_toNat c.g c.r

theorem ba_toNat (c : Color) : c.ba.toNat = c.a.toNat * 2 ^ 16 + c.b.toNat := append_toNat c.a c.b

@[simp] theorem ofWords_rg_ba (c : Color) : Color.ofWords c.rg c.ba = c := by
  have h (x y : Channel) : (x ++ y).extractLsb 15 0 = y ∧ (x ++ y).extractLsb 31 16 = x := by
    have hx := x.isLt
    have hy := y.isLt
    constructor <;> apply BitVec.eq_of_toNat_eq <;>
      simp only [BitVec.extractLsb_toNat, append_toNat, Nat.shiftRight_eq_div_pow] <;> omega
  simp [Color.ofWords, Color.rg, Color.ba, h]

/-- A channel that fits 16 bits is kept exactly. -/
theorem ofNat16_toNat {n : Nat} (h : n ≤ 0xFFFF) : (BitVec.ofNat 16 n).toNat = n := by
  simp only [BitVec.toNat_ofNat]; omega

theorem rep8_le {v : Nat} (h : v < 256) : rep8 v ≤ 0xFFFF := by simp only [rep8]; omega

theorem rep4_le {v : Nat} (h : v < 16) : rep4 v ≤ 0xFFFF := by simp only [rep4]; omega

/-- Premultiplication never exceeds the expanded alpha (R108). -/
theorem premul8_le {c : Nat} (a : Nat) (hc : c < 256) : premul8 c a ≤ rep8 a := by
  have h : c * 0x101 * a ≤ 255 * 0x101 * a := by gcongr; omega
  simp only [premul8, rep8]
  omega

theorem premul4_le {c : Nat} (a : Nat) (hc : c < 16) : premul4 c a ≤ rep4 a := by
  have h : c * 0x1111 * a ≤ 15 * 0x1111 * a := by gcongr; omega
  simp only [premul4, rep4]
  omega

/-- Scaling stays within 16 bits under both modes (R100, R108). -/
theorem scale_le (m : ScaleMode) {f w : Nat} (h : f ≤ w) : scale m f w ≤ 0xFFFF := by
  rcases Nat.eq_zero_or_pos w with rfl | hw
  · cases m <;> simp [scale]
  · cases m
    · calc f * 0xFFFF / w ≤ w * 0xFFFF / w := by gcongr
        _ = 0xFFFF := Nat.mul_div_cancel_left _ hw
    · calc f * (0xFFFF / w) ≤ w * (0xFFFF / w) := by gcongr
        _ ≤ 0xFFFF := Nat.mul_div_le _ _

/-- The bits of RAW above the format's width are ignored by its decode (R27). -/
theorem decodeFmt_rawField (p : Params) (f : Fmt) (raw : Word) :
    decodeFmt p f (rawField f raw) = decodeFmt p f raw := by
  have h (hi lo : Nat) (hw : hi - lo + 1 + lo ≤ f.width) :
      bits (rawField f raw) hi lo = bits raw hi lo := by
    rw [bits_eq, bits_eq, rawField_toNat]
    obtain ⟨k, hk⟩ := Nat.exists_eq_add_of_le hw
    rw [hk, show 2 ^ (hi - lo + 1 + lo + k) = 2 ^ lo * (2 ^ (hi - lo + 1) * 2 ^ k) by ring,
      Nat.mod_mul_right_div_self, Nat.mod_mul_right_mod]
  cases f <;> simp only [Fmt.width] at h <;>
    simp [decodeFmt, decodeGa88, decodeR8, decodeRgb565, decodeRgba4444, decodeRgba5551,
      decodeBgra8888, h]

/-- SCALE_MODE matters to the two formats with 5-bit fields alone (R100). -/
theorem decodeFmt_congr {p q : Params} {f : Fmt} (raw : Word)
    (h : f ∈ [Fmt.rgb565, .rgba5551] → p.scaleMode = q.scaleMode) :
    decodeFmt p f raw = decodeFmt q f raw := by
  cases f <;> simp_all [decodeFmt]

/-- ENC_ALPHA_BITS matters to the formats with an alpha field alone (R131). -/
theorem encodeFmt_congr {p q : Params} {f : Fmt} (c : Color)
    (h : f ∈ [Fmt.ga88, .rgba4444, .rgba5551, .bgra8888] → p.encAlphaBits = q.encAlphaBits) :
    encodeFmt p f c = encodeFmt q f c := by
  cases f <;> simp_all [encodeFmt]

/-- No parameter matters to the zero value's colour (R145). -/
theorem decodeFmt_zero (p q : Params) (f : Fmt) : decodeFmt p f 0 = decodeFmt q f 0 := by
  obtain ⟨m, a, d⟩ := p
  obtain ⟨m', a', d'⟩ := q
  cases m <;> cases m' <;> cases f <;> rfl

end Sys2Proof.Machine
end

