-- ==== Sys2Proof/Laws/Decode.lean ====
section
/-! SUPPORT. What the decoder accepts, once, and the fields of a command word. -/

namespace Sys2Proof

/-- The word of given fields (R22). -/
def CmdFields.toWord (f : CmdFields) : Word := f.rsvd ++ f.y ++ f.x ++ f.fmtD ++ f.fmtS ++ f.op

theorem CmdFields.toWord_ofWord (v : Word) : (CmdFields.ofWord v).toWord = v := by
  apply BitVec.eq_of_toNat_eq
  simp only [toWord, ofWord, Machine.append_toNat, BitVec.extractLsb_toNat, Nat.shiftRight_eq_div_pow]
  have := v.isLt
  omega

/-- An accepted word passed the three checks of R80. -/
theorem CmdFields.decode_eq_ok {f : CmdFields} {i : Instr} (h : f.decode = .ok i) :
    ¬ 6 ≤ f.op.toNat ∧ f.rsvdNonzero = false ∧ f.select = some i := by
  unfold CmdFields.decode at h
  split at h
  · cases h
  · rename_i h1
    split at h
    · cases h
    · rename_i h2
      split at h
      · rename_i h3
        cases h
        exact ⟨h1, (by simpa using h2), h3⟩
      · cases h

theorem Fmt.ofCode?_code (f : Fmt) : Fmt.ofCode? f.code = some f := by cases f <;> rfl

theorem Fmt.eq_code_of_ofCode? {n : Nat} {f : Fmt} (h : Fmt.ofCode? n = some f) : n = f.code := by
  unfold Fmt.ofCode? at h
  split at h <;> simp_all <;> subst h <;> rfl

/-- The legal format codes are 0 to 5 (R75, R77). -/
theorem Fmt.ofCode?_isSome (n : Nat) : (Fmt.ofCode? n).isSome = true ↔ n ≤ 5 := by
  constructor
  · intro h
    obtain ⟨f, hf⟩ := Option.isSome_iff_exists.mp h
    rw [Fmt.eq_code_of_ofCode? hf]
    cases f <;> decide
  · intro h
    interval_cases n <;> rfl

/-- The operation codes: 0 to 5, or reserved (R74, R76). -/
theorem op_cases (op : BitVec 4) :
    op = 0 ∨ op = 1 ∨ op = 2 ∨ op = 3 ∨ op = 4 ∨ op = 5 ∨ 6 ≤ op.toNat := by
  revert op; decide

theorem mem_allCoords (c : BitVec 2) : c ∈ allCoords := by revert c; decide

theorem Fmt.mem_all (f : Fmt) : f ∈ Fmt.all := by cases f <;> decide

/-- Instr.all lists every instruction. -/
theorem Instr.mem_all (i : Instr) : i ∈ Instr.all := by
  cases i
  case conv s d => cases s <;> cases d <;> decide
  case zero d => cases d <;> decide
  case etc1 lx ly =>
    have h : ∀ lx ly : BitVec 2, Instr.etc1 lx ly ∈ Instr.all := by decide
    exact h lx ly
  all_goals decide

end Sys2Proof
end

