-- ==== Sys2Proof/Laws/State.lean ====
section
/-! SUPPORT. One lemma per field per update of State, so that no later proof unfolds an update. -/

namespace Sys2Proof.Machine.State

variable (s : State)

@[simp] theorem setCmd_cmd (v : Word) : (s.setCmd v).cmd = v := rfl
@[simp] theorem setCmd_status (v : Word) : (s.setCmd v).status = s.status := rfl
@[simp] theorem setCmd_rawIn (v : Word) : (s.setCmd v).rawIn = s.rawIn := rfl
@[simp] theorem setCmd_rawOut (v : Word) : (s.setCmd v).rawOut = s.rawOut := rfl
@[simp] theorem setCmd_canInRg (v : Word) : (s.setCmd v).canInRg = s.canInRg := rfl
@[simp] theorem setCmd_canInBa (v : Word) : (s.setCmd v).canInBa = s.canInBa := rfl
@[simp] theorem setCmd_canOutRg (v : Word) : (s.setCmd v).canOutRg = s.canOutRg := rfl
@[simp] theorem setCmd_canOutBa (v : Word) : (s.setCmd v).canOutBa = s.canOutBa := rfl
@[simp] theorem setCmd_blkIn0 (v : Word) : (s.setCmd v).blkIn0 = s.blkIn0 := rfl
@[simp] theorem setCmd_blkIn1 (v : Word) : (s.setCmd v).blkIn1 = s.blkIn1 := rfl
@[simp] theorem setCmd_rgb8Out (v : Word) : (s.setCmd v).rgb8Out = s.rgb8Out := rfl
@[simp] theorem setCmd_params (v : Word) : (s.setCmd v).params = s.params := rfl
@[simp] theorem setCmd_pending (v : Word) : (s.setCmd v).pending = s.pending := rfl
@[simp] theorem setCmd_hostReads (v : Word) : (s.setCmd v).hostReads = s.hostReads := rfl

@[simp] theorem setStatus_cmd (st : Status) : (s.setStatus st).cmd = s.cmd := rfl
@[simp] theorem setStatus_status (st : Status) : (s.setStatus st).status = st := rfl
@[simp] theorem setStatus_rawIn (st : Status) : (s.setStatus st).rawIn = s.rawIn := rfl
@[simp] theorem setStatus_rawOut (st : Status) : (s.setStatus st).rawOut = s.rawOut := rfl
@[simp] theorem setStatus_canInRg (st : Status) : (s.setStatus st).canInRg = s.canInRg := rfl
@[simp] theorem setStatus_canInBa (st : Status) : (s.setStatus st).canInBa = s.canInBa := rfl
@[simp] theorem setStatus_canOutRg (st : Status) : (s.setStatus st).canOutRg = s.canOutRg := rfl
@[simp] theorem setStatus_canOutBa (st : Status) : (s.setStatus st).canOutBa = s.canOutBa := rfl
@[simp] theorem setStatus_blkIn0 (st : Status) : (s.setStatus st).blkIn0 = s.blkIn0 := rfl
@[simp] theorem setStatus_blkIn1 (st : Status) : (s.setStatus st).blkIn1 = s.blkIn1 := rfl
@[simp] theorem setStatus_rgb8Out (st : Status) : (s.setStatus st).rgb8Out = s.rgb8Out := rfl
@[simp] theorem setStatus_params (st : Status) : (s.setStatus st).params = s.params := rfl
@[simp] theorem setStatus_pending (st : Status) : (s.setStatus st).pending = s.pending := rfl
@[simp] theorem setStatus_hostReads (st : Status) : (s.setStatus st).hostReads = s.hostReads := rfl

@[simp] theorem setRawIn_cmd (v : Word) : (s.setRawIn v).cmd = s.cmd := rfl
@[simp] theorem setRawIn_status (v : Word) : (s.setRawIn v).status = s.status := rfl
@[simp] theorem setRawIn_rawIn (v : Word) : (s.setRawIn v).rawIn = v := rfl
@[simp] theorem setRawIn_rawOut (v : Word) : (s.setRawIn v).rawOut = s.rawOut := rfl
@[simp] theorem setRawIn_canInRg (v : Word) : (s.setRawIn v).canInRg = s.canInRg := rfl
@[simp] theorem setRawIn_canInBa (v : Word) : (s.setRawIn v).canInBa = s.canInBa := rfl
@[simp] theorem setRawIn_canOutRg (v : Word) : (s.setRawIn v).canOutRg = s.canOutRg := rfl
@[simp] theorem setRawIn_canOutBa (v : Word) : (s.setRawIn v).canOutBa = s.canOutBa := rfl
@[simp] theorem setRawIn_blkIn0 (v : Word) : (s.setRawIn v).blkIn0 = s.blkIn0 := rfl
@[simp] theorem setRawIn_blkIn1 (v : Word) : (s.setRawIn v).blkIn1 = s.blkIn1 := rfl
@[simp] theorem setRawIn_rgb8Out (v : Word) : (s.setRawIn v).rgb8Out = s.rgb8Out := rfl
@[simp] theorem setRawIn_params (v : Word) : (s.setRawIn v).params = s.params := rfl
@[simp] theorem setRawIn_pending (v : Word) : (s.setRawIn v).pending = s.pending := rfl
@[simp] theorem setRawIn_hostReads (v : Word) : (s.setRawIn v).hostReads = s.hostReads := rfl

@[simp] theorem setRawOut_cmd (v : Word) : (s.setRawOut v).cmd = s.cmd := rfl
@[simp] theorem setRawOut_status (v : Word) : (s.setRawOut v).status = s.status := rfl
@[simp] theorem setRawOut_rawIn (v : Word) : (s.setRawOut v).rawIn = s.rawIn := rfl
@[simp] theorem setRawOut_rawOut (v : Word) : (s.setRawOut v).rawOut = v := rfl
@[simp] theorem setRawOut_canInRg (v : Word) : (s.setRawOut v).canInRg = s.canInRg := rfl
@[simp] theorem setRawOut_canInBa (v : Word) : (s.setRawOut v).canInBa = s.canInBa := rfl
@[simp] theorem setRawOut_canOutRg (v : Word) : (s.setRawOut v).canOutRg = s.canOutRg := rfl
@[simp] theorem setRawOut_canOutBa (v : Word) : (s.setRawOut v).canOutBa = s.canOutBa := rfl
@[simp] theorem setRawOut_blkIn0 (v : Word) : (s.setRawOut v).blkIn0 = s.blkIn0 := rfl
@[simp] theorem setRawOut_blkIn1 (v : Word) : (s.setRawOut v).blkIn1 = s.blkIn1 := rfl
@[simp] theorem setRawOut_rgb8Out (v : Word) : (s.setRawOut v).rgb8Out = s.rgb8Out := rfl
@[simp] theorem setRawOut_params (v : Word) : (s.setRawOut v).params = s.params := rfl
@[simp] theorem setRawOut_pending (v : Word) : (s.setRawOut v).pending = s.pending := rfl
@[simp] theorem setRawOut_hostReads (v : Word) : (s.setRawOut v).hostReads = s.hostReads := rfl

@[simp] theorem setCanInRg_cmd (v : Word) : (s.setCanInRg v).cmd = s.cmd := rfl
@[simp] theorem setCanInRg_status (v : Word) : (s.setCanInRg v).status = s.status := rfl
@[simp] theorem setCanInRg_rawIn (v : Word) : (s.setCanInRg v).rawIn = s.rawIn := rfl
@[simp] theorem setCanInRg_rawOut (v : Word) : (s.setCanInRg v).rawOut = s.rawOut := rfl
@[simp] theorem setCanInRg_canInRg (v : Word) : (s.setCanInRg v).canInRg = v := rfl
@[simp] theorem setCanInRg_canInBa (v : Word) : (s.setCanInRg v).canInBa = s.canInBa := rfl
@[simp] theorem setCanInRg_canOutRg (v : Word) : (s.setCanInRg v).canOutRg = s.canOutRg := rfl
@[simp] theorem setCanInRg_canOutBa (v : Word) : (s.setCanInRg v).canOutBa = s.canOutBa := rfl
@[simp] theorem setCanInRg_blkIn0 (v : Word) : (s.setCanInRg v).blkIn0 = s.blkIn0 := rfl
@[simp] theorem setCanInRg_blkIn1 (v : Word) : (s.setCanInRg v).blkIn1 = s.blkIn1 := rfl
@[simp] theorem setCanInRg_rgb8Out (v : Word) : (s.setCanInRg v).rgb8Out = s.rgb8Out := rfl
@[simp] theorem setCanInRg_params (v : Word) : (s.setCanInRg v).params = s.params := rfl
@[simp] theorem setCanInRg_pending (v : Word) : (s.setCanInRg v).pending = s.pending := rfl
@[simp] theorem setCanInRg_hostReads (v : Word) : (s.setCanInRg v).hostReads = s.hostReads := rfl

@[simp] theorem setCanInBa_cmd (v : Word) : (s.setCanInBa v).cmd = s.cmd := rfl
@[simp] theorem setCanInBa_status (v : Word) : (s.setCanInBa v).status = s.status := rfl
@[simp] theorem setCanInBa_rawIn (v : Word) : (s.setCanInBa v).rawIn = s.rawIn := rfl
@[simp] theorem setCanInBa_rawOut (v : Word) : (s.setCanInBa v).rawOut = s.rawOut := rfl
@[simp] theorem setCanInBa_canInRg (v : Word) : (s.setCanInBa v).canInRg = s.canInRg := rfl
@[simp] theorem setCanInBa_canInBa (v : Word) : (s.setCanInBa v).canInBa = v := rfl
@[simp] theorem setCanInBa_canOutRg (v : Word) : (s.setCanInBa v).canOutRg = s.canOutRg := rfl
@[simp] theorem setCanInBa_canOutBa (v : Word) : (s.setCanInBa v).canOutBa = s.canOutBa := rfl
@[simp] theorem setCanInBa_blkIn0 (v : Word) : (s.setCanInBa v).blkIn0 = s.blkIn0 := rfl
@[simp] theorem setCanInBa_blkIn1 (v : Word) : (s.setCanInBa v).blkIn1 = s.blkIn1 := rfl
@[simp] theorem setCanInBa_rgb8Out (v : Word) : (s.setCanInBa v).rgb8Out = s.rgb8Out := rfl
@[simp] theorem setCanInBa_params (v : Word) : (s.setCanInBa v).params = s.params := rfl
@[simp] theorem setCanInBa_pending (v : Word) : (s.setCanInBa v).pending = s.pending := rfl
@[simp] theorem setCanInBa_hostReads (v : Word) : (s.setCanInBa v).hostReads = s.hostReads := rfl

@[simp] theorem setCanOut_cmd (rg ba : Word) : (s.setCanOut rg ba).cmd = s.cmd := rfl
@[simp] theorem setCanOut_status (rg ba : Word) : (s.setCanOut rg ba).status = s.status := rfl
@[simp] theorem setCanOut_rawIn (rg ba : Word) : (s.setCanOut rg ba).rawIn = s.rawIn := rfl
@[simp] theorem setCanOut_rawOut (rg ba : Word) : (s.setCanOut rg ba).rawOut = s.rawOut := rfl
@[simp] theorem setCanOut_canInRg (rg ba : Word) : (s.setCanOut rg ba).canInRg = s.canInRg := rfl
@[simp] theorem setCanOut_canInBa (rg ba : Word) : (s.setCanOut rg ba).canInBa = s.canInBa := rfl
@[simp] theorem setCanOut_canOutRg (rg ba : Word) : (s.setCanOut rg ba).canOutRg = rg := rfl
@[simp] theorem setCanOut_canOutBa (rg ba : Word) : (s.setCanOut rg ba).canOutBa = ba := rfl
@[simp] theorem setCanOut_blkIn0 (rg ba : Word) : (s.setCanOut rg ba).blkIn0 = s.blkIn0 := rfl
@[simp] theorem setCanOut_blkIn1 (rg ba : Word) : (s.setCanOut rg ba).blkIn1 = s.blkIn1 := rfl
@[simp] theorem setCanOut_rgb8Out (rg ba : Word) : (s.setCanOut rg ba).rgb8Out = s.rgb8Out := rfl
@[simp] theorem setCanOut_params (rg ba : Word) : (s.setCanOut rg ba).params = s.params := rfl
@[simp] theorem setCanOut_pending (rg ba : Word) : (s.setCanOut rg ba).pending = s.pending := rfl
@[simp] theorem setCanOut_hostReads (rg ba : Word) : (s.setCanOut rg ba).hostReads = s.hostReads := rfl

@[simp] theorem setBlkIn0_cmd (v : Word) : (s.setBlkIn0 v).cmd = s.cmd := rfl
@[simp] theorem setBlkIn0_status (v : Word) : (s.setBlkIn0 v).status = s.status := rfl
@[simp] theorem setBlkIn0_rawIn (v : Word) : (s.setBlkIn0 v).rawIn = s.rawIn := rfl
@[simp] theorem setBlkIn0_rawOut (v : Word) : (s.setBlkIn0 v).rawOut = s.rawOut := rfl
@[simp] theorem setBlkIn0_canInRg (v : Word) : (s.setBlkIn0 v).canInRg = s.canInRg := rfl
@[simp] theorem setBlkIn0_canInBa (v : Word) : (s.setBlkIn0 v).canInBa = s.canInBa := rfl
@[simp] theorem setBlkIn0_canOutRg (v : Word) : (s.setBlkIn0 v).canOutRg = s.canOutRg := rfl
@[simp] theorem setBlkIn0_canOutBa (v : Word) : (s.setBlkIn0 v).canOutBa = s.canOutBa := rfl
@[simp] theorem setBlkIn0_blkIn0 (v : Word) : (s.setBlkIn0 v).blkIn0 = v := rfl
@[simp] theorem setBlkIn0_blkIn1 (v : Word) : (s.setBlkIn0 v).blkIn1 = s.blkIn1 := rfl
@[simp] theorem setBlkIn0_rgb8Out (v : Word) : (s.setBlkIn0 v).rgb8Out = s.rgb8Out := rfl
@[simp] theorem setBlkIn0_params (v : Word) : (s.setBlkIn0 v).params = s.params := rfl
@[simp] theorem setBlkIn0_pending (v : Word) : (s.setBlkIn0 v).pending = s.pending := rfl
@[simp] theorem setBlkIn0_hostReads (v : Word) : (s.setBlkIn0 v).hostReads = s.hostReads := rfl

@[simp] theorem setBlkIn1_cmd (v : Word) : (s.setBlkIn1 v).cmd = s.cmd := rfl
@[simp] theorem setBlkIn1_status (v : Word) : (s.setBlkIn1 v).status = s.status := rfl
@[simp] theorem setBlkIn1_rawIn (v : Word) : (s.setBlkIn1 v).rawIn = s.rawIn := rfl
@[simp] theorem setBlkIn1_rawOut (v : Word) : (s.setBlkIn1 v).rawOut = s.rawOut := rfl
@[simp] theorem setBlkIn1_canInRg (v : Word) : (s.setBlkIn1 v).canInRg = s.canInRg := rfl
@[simp] theorem setBlkIn1_canInBa (v : Word) : (s.setBlkIn1 v).canInBa = s.canInBa := rfl
@[simp] theorem setBlkIn1_canOutRg (v : Word) : (s.setBlkIn1 v).canOutRg = s.canOutRg := rfl
@[simp] theorem setBlkIn1_canOutBa (v : Word) : (s.setBlkIn1 v).canOutBa = s.canOutBa := rfl
@[simp] theorem setBlkIn1_blkIn0 (v : Word) : (s.setBlkIn1 v).blkIn0 = s.blkIn0 := rfl
@[simp] theorem setBlkIn1_blkIn1 (v : Word) : (s.setBlkIn1 v).blkIn1 = v := rfl
@[simp] theorem setBlkIn1_rgb8Out (v : Word) : (s.setBlkIn1 v).rgb8Out = s.rgb8Out := rfl
@[simp] theorem setBlkIn1_params (v : Word) : (s.setBlkIn1 v).params = s.params := rfl
@[simp] theorem setBlkIn1_pending (v : Word) : (s.setBlkIn1 v).pending = s.pending := rfl
@[simp] theorem setBlkIn1_hostReads (v : Word) : (s.setBlkIn1 v).hostReads = s.hostReads := rfl

@[simp] theorem setRgb8Out_cmd (v : Word) : (s.setRgb8Out v).cmd = s.cmd := rfl
@[simp] theorem setRgb8Out_status (v : Word) : (s.setRgb8Out v).status = s.status := rfl
@[simp] theorem setRgb8Out_rawIn (v : Word) : (s.setRgb8Out v).rawIn = s.rawIn := rfl
@[simp] theorem setRgb8Out_rawOut (v : Word) : (s.setRgb8Out v).rawOut = s.rawOut := rfl
@[simp] theorem setRgb8Out_canInRg (v : Word) : (s.setRgb8Out v).canInRg = s.canInRg := rfl
@[simp] theorem setRgb8Out_canInBa (v : Word) : (s.setRgb8Out v).canInBa = s.canInBa := rfl
@[simp] theorem setRgb8Out_canOutRg (v : Word) : (s.setRgb8Out v).canOutRg = s.canOutRg := rfl
@[simp] theorem setRgb8Out_canOutBa (v : Word) : (s.setRgb8Out v).canOutBa = s.canOutBa := rfl
@[simp] theorem setRgb8Out_blkIn0 (v : Word) : (s.setRgb8Out v).blkIn0 = s.blkIn0 := rfl
@[simp] theorem setRgb8Out_blkIn1 (v : Word) : (s.setRgb8Out v).blkIn1 = s.blkIn1 := rfl
@[simp] theorem setRgb8Out_rgb8Out (v : Word) : (s.setRgb8Out v).rgb8Out = v := rfl
@[simp] theorem setRgb8Out_params (v : Word) : (s.setRgb8Out v).params = s.params := rfl
@[simp] theorem setRgb8Out_pending (v : Word) : (s.setRgb8Out v).pending = s.pending := rfl
@[simp] theorem setRgb8Out_hostReads (v : Word) : (s.setRgb8Out v).hostReads = s.hostReads := rfl

@[simp] theorem setPending_cmd (es : List HostEvent) : (s.setPending es).cmd = s.cmd := rfl
@[simp] theorem setPending_status (es : List HostEvent) : (s.setPending es).status = s.status := rfl
@[simp] theorem setPending_rawIn (es : List HostEvent) : (s.setPending es).rawIn = s.rawIn := rfl
@[simp] theorem setPending_rawOut (es : List HostEvent) : (s.setPending es).rawOut = s.rawOut := rfl
@[simp] theorem setPending_canInRg (es : List HostEvent) : (s.setPending es).canInRg = s.canInRg := rfl
@[simp] theorem setPending_canInBa (es : List HostEvent) : (s.setPending es).canInBa = s.canInBa := rfl
@[simp] theorem setPending_canOutRg (es : List HostEvent) : (s.setPending es).canOutRg = s.canOutRg := rfl
@[simp] theorem setPending_canOutBa (es : List HostEvent) : (s.setPending es).canOutBa = s.canOutBa := rfl
@[simp] theorem setPending_blkIn0 (es : List HostEvent) : (s.setPending es).blkIn0 = s.blkIn0 := rfl
@[simp] theorem setPending_blkIn1 (es : List HostEvent) : (s.setPending es).blkIn1 = s.blkIn1 := rfl
@[simp] theorem setPending_rgb8Out (es : List HostEvent) : (s.setPending es).rgb8Out = s.rgb8Out := rfl
@[simp] theorem setPending_params (es : List HostEvent) : (s.setPending es).params = s.params := rfl
@[simp] theorem setPending_pending (es : List HostEvent) : (s.setPending es).pending = es := rfl
@[simp] theorem setPending_hostReads (es : List HostEvent) : (s.setPending es).hostReads = s.hostReads := rfl

@[simp] theorem pushRead_cmd (v : Word) : (s.pushRead v).cmd = s.cmd := rfl
@[simp] theorem pushRead_status (v : Word) : (s.pushRead v).status = s.status := rfl
@[simp] theorem pushRead_rawIn (v : Word) : (s.pushRead v).rawIn = s.rawIn := rfl
@[simp] theorem pushRead_rawOut (v : Word) : (s.pushRead v).rawOut = s.rawOut := rfl
@[simp] theorem pushRead_canInRg (v : Word) : (s.pushRead v).canInRg = s.canInRg := rfl
@[simp] theorem pushRead_canInBa (v : Word) : (s.pushRead v).canInBa = s.canInBa := rfl
@[simp] theorem pushRead_canOutRg (v : Word) : (s.pushRead v).canOutRg = s.canOutRg := rfl
@[simp] theorem pushRead_canOutBa (v : Word) : (s.pushRead v).canOutBa = s.canOutBa := rfl
@[simp] theorem pushRead_blkIn0 (v : Word) : (s.pushRead v).blkIn0 = s.blkIn0 := rfl
@[simp] theorem pushRead_blkIn1 (v : Word) : (s.pushRead v).blkIn1 = s.blkIn1 := rfl
@[simp] theorem pushRead_rgb8Out (v : Word) : (s.pushRead v).rgb8Out = s.rgb8Out := rfl
@[simp] theorem pushRead_params (v : Word) : (s.pushRead v).params = s.params := rfl
@[simp] theorem pushRead_pending (v : Word) : (s.pushRead v).pending = s.pending := rfl
@[simp] theorem pushRead_hostReads (v : Word) : (s.pushRead v).hostReads = v :: s.hostReads := rfl

end Sys2Proof.Machine.State
end

