-- ==== Sys2Proof/Laws/Ops.lean ====
section
/-! SUPPORT. What each shared operation does, once: cited instead of unfolding it. -/

namespace Sys2Proof.Machine

variable (s : State)

theorem complete_eq : complete s = { s with status := { s.status with done := true } } := rfl

theorem raiseCmdError_eq (e : CmdError) :
    raiseCmdError e s = { s with status := ⟨false, true, some e⟩ } := rfl

theorem statusWrite_eq (v : Word) :
    statusWrite v s =
      if v[1] then { s with status := { s.status with err := false, ecode := none } } else s := by
  simp only [statusWrite, Status.hostWrite]
  split <;> rfl

theorem finishCanon_eq (c : Color) :
    finishCanon c s =
      { s with canOutRg := c.rg, canOutBa := c.ba, status := { s.status with done := true } } := rfl

theorem finishRaw_eq (raw : Word) :
    finishRaw raw s = { s with rawOut := raw, status := { s.status with done := true } } := rfl

theorem canOut_finishCanon (c : Color) : canOut (finishCanon c s) = c := ofWords_rg_ba c

theorem hostRead_eq (t : Slot) :
    hostRead t s = { s with hostReads := readSlot t s :: s.hostReads } := rfl

/-- STATUS reads 0 after reset. -/
theorem cleared_word : Status.cleared.word = 0 := by decide

theorem takeReset_readReg (r : Reg) : readReg r (takeReset s) = 0 := by
  cases r
  case status => exact cleared_word
  all_goals rfl

/-- The slot of a register's own offset. -/
theorem slotOf?_offset (r : Reg) : slotOf? r.offset 4 = some (.reg r) := by cases r <;> rfl

/-- Which accesses have a slot (R52). -/
theorem slotOf?_isSome (off size : Nat) :
    (slotOf? off size).isSome = true ↔ off % 4 = 0 ∧ off < 0x40 ∧ size = 4 := by
  unfold slotOf?
  split
  · rename_i h
    cases Reg.all.find? (fun r => r.offset == off) <;> simp [h]
  · rename_i h
    simpa using h

/-- A register has one offset, and its slot is reached with size 4 alone. -/
theorem slotOf?_eq_reg {off size : Nat} {r : Reg} (h : slotOf? off size = some (.reg r)) :
    off = r.offset ∧ size = 4 := by
  unfold slotOf? at h
  split at h
  · rename_i hs
    split at h
    · rename_i r' hr
      have := List.find?_some hr
      simp only [Option.some.injEq, Slot.reg.injEq] at h
      subst h
      exact ⟨(by simpa using this : r'.offset = off).symm, hs.2.2⟩
    · simp at h
  · simp at h

/-- Where an access by host address goes: one of four cases, which exclude each other. -/
theorem windowEvent_of_inside {base off size : Nat} {at_ : Nat → HostEvent} (h : off < 0x40) :
    windowEvent base (base + off) size at_ = some (at_ off) := by
  simp [windowEvent, windowOffset, h]

theorem windowEvent_of_straddling {base addr size : Nat} {at_ : Nat → HostEvent} (h : addr < base)
    (h' : base < addr + size) : windowEvent base addr size at_ = some .straddlingAccess := by
  simp [windowEvent, windowOffset, h, h', Nat.not_le.2 h]

theorem windowEvent_of_below {base addr size : Nat} {at_ : Nat → HostEvent} (h : addr < base)
    (h' : addr + size ≤ base) : windowEvent base addr size at_ = none := by
  simp [windowEvent, windowOffset, Nat.not_le.2 h, Nat.not_lt.2 h']

theorem windowEvent_of_above {base addr size : Nat} {at_ : Nat → HostEvent} (h : base + 0x40 ≤ addr) :
    windowEvent base addr size at_ = none := by
  have : ¬ addr < base + 0x40 := Nat.not_lt.2 h
  have : ¬ addr < base := by omega
  simp [windowEvent, windowOffset, *]

/-- A host write changes one operand register, or CMD, or STATUS by rule R201, or nothing (R54). -/
theorem hostWrite_cases (t : Slot) (v : Word) :
    (∃ r, t = .reg r ∧ hostWrite t v s = writeReg r v s) ∨ (t = .reserved ∧ hostWrite t v s = s) := by
  cases t with
  | reg r => exact .inl ⟨r, rfl, rfl⟩
  | reserved => exact .inr ⟨rfl, rfl⟩

end Sys2Proof.Machine
end

