-- ==== Sys2Proof/Laws/Exec.lean ====
section
/-! SUPPORT. What a command does, once: an equation for each kind of command and the one case
analysis that later proofs cite. -/

namespace Sys2Proof.Machine

variable (s : State)

theorem exec_decOf (f : Fmt) :
    exec (.decOf f) s = .next (finishCanon (decodeFmt s.params f s.rawIn) s) := by
  cases f <;> rfl

theorem exec_encOf (f : Fmt) :
    exec (.encOf f) s = .next (finishRaw (encodeFmt s.params f (canIn s)) s) := by
  cases f <;> rfl

theorem exec_conv (f g : Fmt) :
    exec (.conv f g) s = .next (finishRaw (convert s.params f g s.rawIn) s) := rfl

theorem exec_zero (f : Fmt) :
    exec (.zero f) s = .next (finishCanon (decodeFmt s.params f 0) (s.setRawOut 0)) := rfl

theorem exec_etc1 (lx ly : BitVec 2) :
    exec (.etc1 lx ly) s =
      .next (finishCanon (decodeEtc1 s.params.etc1DiffMap (blockIn s) lx ly).canonical
        (s.setRgb8Out (decodeEtc1 s.params.etc1DiffMap (blockIn s) lx ly).packed)) := rfl

/-- The kinds of command. -/
theorem instr_cases (i : Instr) :
    i = .nop ∨ (∃ f, i = .decOf f) ∨ (∃ f, i = .encOf f) ∨ (∃ f g, i = .conv f g) ∨
      (∃ f, i = .zero f) ∨ ∃ lx ly, i = .etc1 lx ly := by
  cases i with
  | nop => simp
  | decGa88 => exact .inr (.inl ⟨.ga88, rfl⟩)
  | decR8 => exact .inr (.inl ⟨.r8, rfl⟩)
  | decRgb565 => exact .inr (.inl ⟨.rgb565, rfl⟩)
  | decRgba4444 => exact .inr (.inl ⟨.rgba4444, rfl⟩)
  | decRgba5551 => exact .inr (.inl ⟨.rgba5551, rfl⟩)
  | decBgra8888 => exact .inr (.inl ⟨.bgra8888, rfl⟩)
  | encGa88 => exact .inr (.inr (.inl ⟨.ga88, rfl⟩))
  | encR8 => exact .inr (.inr (.inl ⟨.r8, rfl⟩))
  | encRgb565 => exact .inr (.inr (.inl ⟨.rgb565, rfl⟩))
  | encRgba4444 => exact .inr (.inr (.inl ⟨.rgba4444, rfl⟩))
  | encRgba5551 => exact .inr (.inr (.inl ⟨.rgba5551, rfl⟩))
  | encBgra8888 => exact .inr (.inr (.inl ⟨.bgra8888, rfl⟩))
  | conv f g => exact .inr (.inr (.inr (.inl ⟨f, g, rfl⟩)))
  | zero f => exact .inr (.inr (.inr (.inr (.inl ⟨f, rfl⟩))))
  | etc1 lx ly => exact .inr (.inr (.inr (.inr (.inr ⟨lx, ly, rfl⟩))))

/-- Everything a command can do: it completes, after at most its own result registers (R33). -/
theorem exec_cases (i : Instr) :
    exec i s = .next (complete s) ∨
    (∃ f, exec i s = .next (finishCanon (decodeFmt s.params f s.rawIn) s)) ∨
    (∃ raw, exec i s = .next (finishRaw raw s)) ∨
    (∃ f, exec i s = .next (finishCanon (decodeFmt s.params f 0) (s.setRawOut 0))) ∨
    ∃ p : Rgb, exec i s = .next (finishCanon p.canonical (s.setRgb8Out p.packed)) := by
  obtain rfl | ⟨f, rfl⟩ | ⟨f, rfl⟩ | ⟨f, g, rfl⟩ | ⟨f, rfl⟩ | ⟨lx, ly, rfl⟩ := instr_cases i
  · exact .inl rfl
  · exact .inr (.inl ⟨f, exec_decOf s f⟩)
  · exact .inr (.inr (.inl ⟨_, exec_encOf s f⟩))
  · exact .inr (.inr (.inl ⟨_, exec_conv s f g⟩))
  · exact .inr (.inr (.inr (.inl ⟨f, exec_zero s f⟩)))
  · exact .inr (.inr (.inr (.inr ⟨_, exec_etc1 s lx ly⟩)))

end Sys2Proof.Machine
end

