-- ==== Sys2Proof/Laws/HostLayout.lean ====
section
/-! SUPPORT. What the host-side layout functions do, once: stored bytes as numbers, the place of a
pixel in its buffer, and the block grid. -/

namespace Sys2Proof.Machine

theorem littleEndian_lt : ∀ bytes : List Byte, littleEndian bytes < 256 ^ bytes.length
  | [] => Nat.zero_lt_one
  | b :: bs => by
    have := b.isLt
    have := littleEndian_lt bs
    simp only [littleEndian, List.length_cons, pow_succ]
    omega

/-- Byte `k` of a little-endian number is stored byte `k`. -/
theorem littleEndian_byte : ∀ (bytes : List Byte) (k : Nat) (h : k < bytes.length),
    littleEndian bytes / 2 ^ (8 * k) % 256 = bytes[k].toNat
  | b :: bs, 0, _ => by
    have := b.isLt
    show (b.toNat + 256 * littleEndian bs) / 2 ^ 0 % 256 = b.toNat
    omega
  | b :: bs, k + 1, h => by
    have := b.isLt
    simp only [littleEndian, List.getElem_cons_succ]
    rw [← littleEndian_byte bs k (by simpa using h), show 8 * (k + 1) = 8 + 8 * k by ring, pow_add,
      ← Nat.div_div_eq_div_mul]
    congr 2
    omega

/-- Up to four bytes fit a register. -/
theorem ofNat_littleEndian {bytes : List Byte} (h : bytes.length ≤ 4) :
    (BitVec.ofNat 32 (littleEndian bytes)).toNat = littleEndian bytes := by
  have : 256 ^ bytes.length ≤ 256 ^ 4 := Nat.pow_le_pow_right (by norm_num) h
  have := littleEndian_lt bytes
  rw [BitVec.toNat_ofNat, Nat.mod_eq_of_lt (by omega)]

@[simp] theorem length_bytesOfRaw (f : Fmt) (raw : Word) :
    (bytesOfRaw f raw).length = f.bytesPerPixel := by simp [bytesOfRaw]

theorem raw?_of_contains {e : MaxEdge} {im : PlanarImage} {x y : Int}
    (h : im.rect.contains e x y = true) :
    im.raw? e x y = some (rawOfBytes
      ((im.buffer.drop (im.pixelOffset x y).toNat).take im.fmt.bytesPerPixel)) := by
  simp [PlanarImage.raw?, h]

theorem setRaw_of_contains {e : MaxEdge} {im : PlanarImage} {x y : Int} (raw : Word)
    (h : im.rect.contains e x y = true) :
    im.setRaw e x y raw = { im with
      buffer := im.buffer.take (im.pixelOffset x y).toNat ++ bytesOfRaw im.fmt raw ++
        im.buffer.drop ((im.pixelOffset x y).toNat + im.fmt.bytesPerPixel) } := by
  simp [PlanarImage.setRaw, h]

theorem operands?_of_contains {e : MaxEdge} {im : BlockImage} {x y : Int}
    (h : im.rect.contains e x y = true) :
    im.operands? e x y = some
      (blockOperands im.payload (im.rect.size e).1 (x - im.rect.minX).toNat (y - im.rect.minY).toNat,
        localCoords (x - im.rect.minX).toNat (y - im.rect.minY).toNat) := by
  simp [BlockImage.operands?, h]

/-- `ceil(n/4)`: the least number of fours that cover `n`. -/
theorem blocksFor_bounds (n : Nat) : n ≤ 4 * blocksFor n ∧ 4 * blocksFor n < n + 4 := by
  simp only [blocksFor]
  omega

end Sys2Proof.Machine
end

