-- ==== Sys2Proof/Laws/PerInstr.lean ====
section
/-! SUPPORT. What is so of every instruction as syntax, one lemma per constructor: the word of an
instruction has legal fields by the table of 30_encoding.md rule R72. -/

namespace Sys2Proof.Laws.WordWellFormed

/-- The instruction's word passes the checks of WellFormed.lean. -/
def Statement (i : Instr) : Prop := (CmdFields.ofWord (encode i)).wellFormed = true

theorem nop : Statement .nop := by unfold Statement; decide
theorem decGa88 : Statement .decGa88 := by unfold Statement; decide
theorem decR8 : Statement .decR8 := by unfold Statement; decide
theorem decRgb565 : Statement .decRgb565 := by unfold Statement; decide
theorem decRgba4444 : Statement .decRgba4444 := by unfold Statement; decide
theorem decRgba5551 : Statement .decRgba5551 := by unfold Statement; decide
theorem decBgra8888 : Statement .decBgra8888 := by unfold Statement; decide
theorem encGa88 : Statement .encGa88 := by unfold Statement; decide
theorem encR8 : Statement .encR8 := by unfold Statement; decide
theorem encRgb565 : Statement .encRgb565 := by unfold Statement; decide
theorem encRgba4444 : Statement .encRgba4444 := by unfold Statement; decide
theorem encRgba5551 : Statement .encRgba5551 := by unfold Statement; decide
theorem encBgra8888 : Statement .encBgra8888 := by unfold Statement; decide
theorem conv (s d : Fmt) : Statement (.conv s d) := by
  unfold Statement; cases s <;> cases d <;> decide
theorem zero (d : Fmt) : Statement (.zero d) := by unfold Statement; cases d <;> decide
theorem etc1 (lx ly : BitVec 2) : Statement (.etc1 lx ly) := by
  unfold Statement; revert lx ly; decide

end Sys2Proof.Laws.WordWellFormed
end

