-- ==== Sys2Proof/Laws/Step.lean ====
section
/-! SUPPORT. What a step does, once, and the induction over runs. -/

namespace Sys2Proof.Machine

variable {s t : State}

theorem step_event {e : HostEvent} {es : List HostEvent} (h : s.pending = e :: es) :
    step s = takeEvent e (s.setPending es) := by
  simp [step, h]

/-- Everything a step that goes on can be: idle, a read, a write that launches nothing, a command, a
failed command, or a reset. -/
theorem step_cases (h : step s = .next t) :
    (s.pending = [] ∧ t = s) ∨
    ∃ e es, s.pending = e :: es ∧
      ((∃ off size u, e = .read off size ∧ slotOf? off size = some u ∧ t = hostRead u (s.setPending es)) ∨
       (∃ off size v u, e = .write off size v ∧ slotOf? off size = some u ∧ u ≠ .reg .cmd ∧
          t = hostWrite u v (s.setPending es)) ∨
       (∃ v i, e = .write 0 4 v ∧ decode v = .ok i ∧ exec i ((s.setPending es).setCmd v) = .next t) ∨
       (∃ v c, e = .write 0 4 v ∧ decode v = .error c ∧ t = raiseCmdError c ((s.setPending es).setCmd v)) ∨
       (e = .reset ∧ t = takeReset (s.setPending es))) := by
  cases hp : s.pending with
  | nil =>
    simp only [step, hp, Host.Outcome.next.injEq] at h
    exact .inl ⟨rfl, h.symm⟩
  | cons e es =>
    rw [step_event hp] at h
    refine .inr ⟨e, es, rfl, ?_⟩
    cases e with
    | read off size =>
      simp only [takeEvent] at h
      split at h
      · rename_i u hu
        exact .inl ⟨off, size, u, rfl, hu, (by simpa using h.symm)⟩
      · cases h
    | write off size v =>
      simp only [takeEvent] at h
      split at h
      · rename_i u hu
        split at h
        · rename_i hl
          have hl : u = .reg .cmd := by simpa [launches] using hl
          subst hl
          obtain ⟨rfl, rfl⟩ := slotOf?_eq_reg hu
          simp only [execute, hostWrite, writeReg] at h
          split at h
          · rename_i i hi
            exact .inr (.inr (.inl ⟨v, i, rfl, hi, h⟩))
          · rename_i c hc
            exact .inr (.inr (.inr (.inl ⟨v, c, rfl, hc, (by simpa using h.symm)⟩)))
        · rename_i hl
          exact .inr (.inl ⟨off, size, v, u, rfl, hu, (by simpa [launches] using hl), (by simpa using h.symm)⟩)
      · cases h
    | straddlingAccess => cases h
    | reset => exact .inr (.inr (.inr (.inr ⟨rfl, (by simpa [takeEvent] using h.symm)⟩)))
    | accessDuringReset => cases h
    | secondHostAccess => cases h

/-- What every step keeps, every run keeps. -/
theorem run_keeps {P : State → Prop} (keeps : ∀ s t, step s = .next t → P s → P t) :
    ∀ (k : Nat) (s t : State), Sys2Proof.core.run k s = .next t → P s → P t
  | 0, s, t, h, hs => by
    cases h
    exact hs
  | k + 1, s, t, h, hs => by
    cases hu : step s with
    | next u =>
      have : Sys2Proof.core.step s = .next u := hu
      simp only [Host.Core.run, this] at h
      exact run_keeps keeps k u t h (keeps s u hu hs)
    | fault r => cases r
    | refused r =>
      have : Sys2Proof.core.step s = .refused r := hu
      simp [Host.Core.run, this] at h

end Sys2Proof.Machine
end

