-- ==== Sys2Proof/Tests/Slice0.lean ====
section
/-! SUPPORT. The model's own tests. Expected values come from the encodings of 30_encoding.md rule
R81, the examples of the rules, and the vectors of 95_test_vectors.md, never from the model. The
second half shows, for every statement with hypotheses, values that meet them. -/

open Sys2Proof Sys2Proof.Machine Sys2Proof.Claims

namespace Sys2Proof.Tests

/-- The next state, where there is one. -/
def after (o : Host.Outcome State Fault Refusal) : Option State :=
  match o with
  | .next s => some s
  | _ => none

/-- The reason of a refusal, where there is one. -/
def refusal (o : Host.Outcome State Fault Refusal) : Option Refusal :=
  match o with
  | .refused r => some r
  | _ => none

/-- The instruction of a word, or the error it reports, as comparable data. -/
def outcome (v : Word) : Option Instr × Option CmdError :=
  match decode v with
  | .ok i => (some i, none)
  | .error e => (none, some e)

/-- `s` after one step that takes the host's write of the word `w` to CMD. -/
def command (w : Nat) (s : State) : Option State := after (step (s.withFetchWord 32 w))

/-- The unit after reset with RAW_IN loaded. -/
def withRaw (raw : Word) : State := State.reset.setRawIn raw

/-- The unit after reset with the canonical colour of channels r, g, b, a in CAN_IN. -/
def withCan (r g b a : Channel) : State :=
  (State.reset.setCanInRg (Color.mk r g b a).rg).setCanInBa (Color.mk r g b a).ba

/-- The unit after reset with a block in BLK_IN. -/
def withBlock (w0 w1 : Word) : State := (State.reset.setBlkIn0 w0).setBlkIn1 w1

/-- The same unit under other parameters. -/
def under (p : Params) (s : State) : State := { s with params := p }

/-- CAN_OUT after a command. -/
def canonOf (o : Option State) : Option (Word × Word) := o.map fun s => (s.canOutRg, s.canOutBa)

/-- RAW_OUT after a command. -/
def rawOf (o : Option State) : Option Word := o.map State.rawOut

/-- STATUS after an event, as the host reads it. -/
def statusOf (o : Option State) : Option Word := o.map (readReg .status)

/-- Every parameter at its other value. -/
def otherParams : Params := ⟨.quotFirst, .high, .standard⟩

/-- The source's two-pixel image (95_test_vectors.md section 6). -/
def twoPixels : PlanarImage := ⟨[0x5A, 0xA5, 0x2B, 0xB2], 4, ⟨0, 0, 2, 1⟩, .rgba4444⟩

/-! ### Well-formedness: an ill-formed word for each check, refused -/

/-- OP 6 is reserved (R76). -/
theorem test_ill_op : CmdFields.opLegal ⟨6, 0, 0, 0, 0, 0⟩ = false ∧
    CmdFields.wellFormed ⟨6, 0, 0, 0, 0, 0⟩ = false := by decide

/-- RSVD must be 0 (R72). -/
theorem test_ill_rsvd : CmdFields.unusedClear ⟨0, 0, 0, 0, 0, 0x8000⟩ = false ∧
    CmdFields.wellFormed ⟨0, 0, 0, 0, 0, 0x8000⟩ = false := by decide

/-- FMT_S, FMT_D, X and Y must be 0 where the operation does not use them (R72). -/
theorem test_ill_unused :
    CmdFields.wellFormed ⟨0, 1, 0, 0, 0, 0⟩ = false ∧ CmdFields.wellFormed ⟨0, 0, 0, 0, 1, 0⟩ = false ∧
    CmdFields.wellFormed ⟨1, 0, 1, 0, 0, 0⟩ = false ∧ CmdFields.wellFormed ⟨2, 1, 0, 0, 0, 0⟩ = false ∧
    CmdFields.wellFormed ⟨3, 0, 0, 1, 0, 0⟩ = false ∧ CmdFields.wellFormed ⟨4, 1, 0, 0, 0, 0⟩ = false ∧
    CmdFields.wellFormed ⟨5, 1, 0, 0, 0, 0⟩ = false ∧
    CmdFields.wellFormed ⟨5, 0, 1, 0, 0, 0⟩ = false := by decide

/-- A used format field holds 0 to 5 (R75, R77). -/
theorem test_ill_format :
    CmdFields.formatsLegal ⟨1, 6, 0, 0, 0, 0⟩ = false ∧ CmdFields.wellFormed ⟨1, 6, 0, 0, 0, 0⟩ = false ∧
    CmdFields.wellFormed ⟨2, 0, 15, 0, 0, 0⟩ = false ∧ CmdFields.wellFormed ⟨3, 5, 6, 0, 0, 0⟩ = false ∧
    CmdFields.wellFormed ⟨3, 6, 5, 0, 0, 0⟩ = false ∧
    CmdFields.wellFormed ⟨4, 0, 6, 0, 0, 0⟩ = false := by decide

/-- Legal fields pass. -/
theorem test_well_formed : CmdFields.wellFormed ⟨3, 5, 5, 0, 0, 0⟩ = true ∧
    CmdFields.wellFormed ⟨5, 0, 0, 3, 3, 0⟩ = true := by decide

/-! ### Decoding: words written out from the table of R81 -/

/-- NOP and the six DEC words. -/
theorem test_decode_nop_dec :
    decodeTableWord 32 0x00000000 = some .nop ∧
    decodeTableWord 32 0b00000001 = some .decGa88 ∧
    decodeTableWord 32 0b00010001 = some .decR8 ∧
    decodeTableWord 32 0b00100001 = some .decRgb565 ∧
    decodeTableWord 32 0b00110001 = some .decRgba4444 ∧
    decodeTableWord 32 0b01000001 = some .decRgba5551 ∧
    decodeTableWord 32 0b01010001 = some .decBgra8888 := by decide

/-- The six ENC words. -/
theorem test_decode_enc :
    decodeTableWord 32 0b000000000010 = some .encGa88 ∧
    decodeTableWord 32 0b000100000010 = some .encR8 ∧
    decodeTableWord 32 0b001000000010 = some .encRgb565 ∧
    decodeTableWord 32 0b001100000010 = some .encRgba4444 ∧
    decodeTableWord 32 0b010000000010 = some .encRgba5551 ∧
    decodeTableWord 32 0b010100000010 = some .encBgra8888 := by decide

/-- CONV RGBA4444, BGRA8888 (R82's example) and CONV BGRA8888, RGBA4444 (95_test_vectors.md 3.2):
the source format is the low nibble. -/
theorem test_decode_conv :
    decodeTableWord 32 0b010100110011 = some (.conv .rgba4444 .bgra8888) ∧
    decodeTableWord 32 0b001101010011 = some (.conv .bgra8888 .rgba4444) := by decide

/-- ZERO RGB565; ETC1 0, 2 and ETC1 2, 1: the column is the low pair (95_test_vectors.md 3.4, 4). -/
theorem test_decode_zero_etc1 :
    decodeTableWord 32 0b001000000100 = some (.zero .rgb565) ∧
    decodeTableWord 32 0b1000000000000101 = some (.etc1 0 2) ∧
    decodeTableWord 32 0b0110000000000101 = some (.etc1 2 1) := by decide

/-- The three examples of R213, and the first reserved OP (R76). -/
theorem test_decode_errors :
    outcome 0xFFFFFFFF = (none, some .illegalOp) ∧ outcome 0x00010091 = (none, some .rsvdField) ∧
    outcome 0x00000091 = (none, some .illegalFmt) ∧ outcome 0x00000006 = (none, some .illegalOp) := by
  decide

/-- R82's example line, with blanks and a comment; a line that is no command. -/
theorem test_assemble :
    assemble "CONV RGBA4444, BGRA8888".toList = some 0x00000533 ∧
    assemble "  ETC1 0,2 ; pixel".toList = some 0x00008005 ∧
    assemble "DEC.RGBA5551".toList = some 0x00000041 ∧ assemble "DEC.RGB888".toList = none := by
  decide

/-! ### NOP, errors and STATUS (43_control.md, 95_test_vectors.md section 5) -/

/-- STATUS 0x12, NOP gives 0x13 (R200). -/
theorem test_nop : statusOf (command 0x0 (State.reset.setStatus ⟨false, true, some .illegalOp⟩)) =
    some 0x00000013 := by decide

/-- A failed command: STATUS 0x20 + 0x02, the word in CMD, the results kept (R211). -/
theorem test_failed_command :
    (command 0x00010091 ((State.reset.setRawOut 7).setStatus ⟨true, false, none⟩)).map
      (fun s => (readReg .status s, s.cmd, s.rawOut)) = some (0x00000022, 0x00010091, 7) := by decide

/-- STATUS 0x32, CLRERR gives 0; STATUS 0x33, writing 0xFFFFFFFF gives 1, writing 1 changes nothing
(R201). -/
theorem test_status_write :
    statusOf (after (step ((State.reset.setStatus ⟨false, true, some .illegalFmt⟩).setPending
      [HostStmt.clrErr.event]))) = some 0 ∧
    statusOf (after (step ((State.reset.setStatus ⟨true, true, some .illegalFmt⟩).setPending
      [.write 0x04 4 0xFFFFFFFF]))) = some 1 ∧
    statusOf (after (step ((State.reset.setStatus ⟨true, true, some .illegalFmt⟩).setPending
      [.write 0x04 4 1]))) = some 0x33 := by decide

/-- A write to RAW_OUT is ignored; a reserved slot reads 0 (95_test_vectors.md section 5). -/
theorem test_read_only_and_reserved :
    rawOf (after (step ((State.reset.setRawOut 5).setPending [.write 0x0C 4 0x12345678]))) = some 5 ∧
    (after (step (State.reset.setPending [.read 0x2C 4]))).map State.hostReads = some [0] := by decide

/-! ### DEC: 95_test_vectors.md section 2, RAW_IN and CAN_OUT_RG, CAN_OUT_BA -/

theorem test_dec_ga88 :
    canonOf (command 0x01 (withRaw 0x0000A55A)) = some (0x3A763A76, 0xA5A53A76) ∧
    canonOf (command 0x01 (withRaw 0x12345601)) = some (0x00560056, 0x56560056) := by decide

theorem test_dec_r8 : canonOf (command 0x11 (withRaw 0xFFFFFF80)) = some (0x00008080, 0xFFFF0000) := by
  decide

theorem test_dec_rgb565 :
    canonOf (command 0x21 (withRaw 0x0000A55A)) = some (0xAAAAA528, 0xFFFFD6B4) := by decide

/-- Under QUOT_FIRST (0xFFFE, 0xFFF0, 0xFFFE, 0xFFFF). -/
theorem test_dec_rgb565_quot_first :
    canonOf (command 0x21 (under otherParams (withRaw 0x0000FFFF))) = some (0xFFF0FFFE, 0xFFFFFFFE) := by
  decide

theorem test_dec_rgba4444 :
    canonOf (command 0x31 (withRaw 0x0000A55A)) = some (0x38E371C6, 0xAAAA38E3) ∧
    canonOf (command 0x31 (withRaw 0x00001231)) = some (0x02460123, 0x11110369) := by decide

theorem test_dec_rgba5551 :
    canonOf (command 0x41 (withRaw 0x0000A55B)) = some (0xAD6AA528, 0xFFFF6B5A) ∧
    canonOf (command 0x41 (withRaw 0x0000FFFE)) = some (0, 0) := by decide

/-- Under QUOT_FIRST (0xFFFE, 0, 0, 0xFFFF). -/
theorem test_dec_rgba5551_quot_first :
    canonOf (command 0x41 (under otherParams (withRaw 0x0000F801))) = some (0x0000FFFE, 0xFFFF0000) := by
  decide

theorem test_dec_bgra8888 :
    canonOf (command 0x51 (withRaw 0x80FF8040)) = some (0x40808080, 0x80802040) ∧
    canonOf (command 0x51 (withRaw 0x7F102030)) = some (0x0FFF07FF, 0x7F7F17FF) := by decide

/-! ### ENC: 95_test_vectors.md section 3.1, row E1 under LOW and HIGH, and over-range row E6 -/

theorem test_enc_ga88 :
    rawOf (command 0x002 (withCan 0x8000 0x4000 0x2000 0x8000)) = some 0x00FF ∧
    rawOf (command 0x002 (under otherParams (withCan 0x9000 0 0 0x8000))) = some 0x801F := by decide

theorem test_enc_r8 : rawOf (command 0x102 (withCan 0x1234 0x5678 0x9ABC 0)) = some 0x12 := by decide

theorem test_enc_rgb565 : rawOf (command 0x202 (withCan 0x1234 0x5678 0x9ABC 0)) = some 0x12B3 := by
  decide

theorem test_enc_rgba4444 :
    rawOf (command 0x302 (withCan 0x8000 0x4000 0x2000 0x8000)) = some 0xF730 ∧
    rawOf (command 0x302 (under otherParams (withCan 0x8000 0x4000 0x2000 0x8000))) = some 0xF738 := by
  decide

theorem test_enc_rgba5551 :
    rawOf (command 0x402 (withCan 0x1234 0x5678 0x9ABC 0xFFFF)) = some 0x12A7 ∧
    rawOf (command 0x402 (under otherParams (withCan 0x8000 0x4000 0x2000 0x8000))) = some 0x8209 := by
  decide

theorem test_enc_bgra8888 :
    rawOf (command 0x502 (withCan 0x1234 0x5678 0x9ABC 0xFFFF)) = some 0xFF12569A ∧
    rawOf (command 0x502 (withCan 0x8000 0x4000 0x2000 0x8000)) = some 0x00FF7F3F := by decide

/-! ### CONV and ZERO: 95_test_vectors.md sections 3.2 and 3.4 -/

/-- CAN_OUT keeps its value. -/
theorem test_conv :
    (command 0x533 ((withRaw 0x0000A55A).setCanOut 3 4)).map
      (fun s => (s.rawOut, s.canOutRg, s.canOutBa)) = some (0xAAAA5555, 3, 4) := by decide

/-- The identity shortcut keeps a transparent pixel's colour and drops the bits above the width. -/
theorem test_conv_identity : rawOf (command 0x333 (withRaw 0xFFFF1230)) = some 0x1230 ∧
    rawOf (command 0x113 (withRaw 0x0000ABCD)) = some 0xCD := by decide

theorem test_zero :
    (command 0x204 ((State.reset.setRawOut 9).setCanOut 3 4)).map
      (fun s => (s.rawOut, s.canOutRg, s.canOutBa)) = some (0, 0, 0xFFFF0000) ∧
    canonOf (command 0x404 (State.reset.setCanOut 3 4)) = some (0, 0) := by decide

/-! ### ETC1: 95_test_vectors.md section 4 -/

/-- The DIFF block at (0, 2) under DOC and STANDARD. -/
theorem test_etc1_differential :
    (command 0x8005 (withBlock 0x1F2FA453 0x0FF000FF)).map
      (fun s => (s.rgb8Out, s.canOutRg, s.canOutBa)) = some (0xFFFFD8FF, 0xD8D8FFFF, 0xFFFFFFFF) ∧
    (command 0x8005 (under otherParams (withBlock 0x1F2FA453 0x0FF000FF))).map State.rgb8Out =
      some 0xFFD8FFFF := by decide

/-- The IND block at (1, 0), (5E, 00, D5), and at (2, 1), (00, 7C, 00). -/
theorem test_etc1_individual :
    (command 0x1005 (withBlock 0x74F02C84 0x78563412)).map State.rgb8Out = some 0xFFD5005E ∧
    (command 0x6005 (withBlock 0x74F02C84 0x78563412)).map State.rgb8Out = some 0xFF007C00 := by decide

/-- `sum5` of 0xFB is 2 and of 0x04 is 28 (R177). -/
theorem test_sum5 : sum5 0xFB = 2 ∧ sum5 0x04 = 28 := by decide

/-! ### Host layout: 95_test_vectors.md W1 and section 6 -/

theorem test_lanes : rawOfBytes [0x5A, 0xA5] = 0xA55A ∧ rawOfBytes [0x2B, 0xB2] = 0xB22B ∧
    blkInOfBytes [0x53, 0xA4, 0x2F, 0x1F, 0xFF, 0x00, 0xF0, 0x0F] = (0x1F2FA453, 0x0FF000FF) := by
  decide

/-- Pixel (1, 0) of the source's two-pixel image is read and written in bytes 2 and 3 (R60). -/
theorem test_planar :
    twoPixels.raw? .outside 1 0 = some 0xB22B ∧
    (twoPixels.setRaw .outside 1 0 0x1234).buffer = [0x5A, 0xA5, 0x34, 0x12] := by decide

/-! ### Witnesses: values that meet the hypotheses of a statement -/

/-- A unit with a value in every register, an error recorded, and `es` to come. -/
def busy (es : List HostEvent) : State where
  cmd := 0x00000006
  status := ⟨false, true, some .illegalOp⟩
  rawIn := 0x0000A55B
  rawOut := 0x00001234
  canInRg := 0x40008000
  canInBa := 0x80002000
  canOutRg := 0x40804080
  canOutBa := 0x80804080
  blkIn0 := 0x1F2FA453
  blkIn1 := 0x0FF000FF
  rgb8Out := 0xFFFFD8FF
  params := otherParams
  pending := es
  hostReads := [1]

/-- The invariant holds of it, so what rests on the invariant is not empty. -/
theorem witness_busy_inv (es : List HostEvent) : Inv (busy es) :=
  ⟨rfl, rfl, (show (Color.ofWords 0x40804080 0x80804080).premultiplied = true by decide),
    .inr (show (0xFFFFD8FF : Word).extractLsb 31 24 = 0xFF by decide)⟩

theorem witness_ResetClearsEveryRegister :
    (busy [.reset, .read 0 4]).pending = .reset :: [.read 0 4] ∧
    readReg .rawIn (busy [.reset]) ≠ 0 := by decide

theorem witness_StepKeepsInvariant :
    Inv (busy [.write 0x00 4 0x41]) ∧ ∃ t, step (busy [.write 0x00 4 0x41]) = .next t :=
  ⟨witness_busy_inv _, _, rfl⟩

theorem witness_EncodeOfDecodeIsTheWord : decode 0x00000533 = .ok (.conv .rgba4444 .bgra8888) := rfl

/-- First clause: the first and the last reserved OP. -/
theorem witness_FirstError_op : 6 ≤ field 0x00000006 3 0 ∧ 6 ≤ field 0xFFFFFFFF 3 0 := by decide

/-- Second clause: the last legal OP with FMT_S nonzero, NOP with bit 16 or bit 31 set, and DEC with Y
nonzero. -/
theorem witness_FirstError_rsvd :
    (¬ 6 ≤ field 0x00000015 3 0 ∧ unusedNonzero 0x00000015) ∧
    (¬ 6 ≤ field 0x00010000 3 0 ∧ unusedNonzero 0x00010000) ∧
    (¬ 6 ≤ field 0x80000000 3 0 ∧ unusedNonzero 0x80000000) ∧
    (¬ 6 ≤ field 0x00008001 3 0 ∧ unusedNonzero 0x00008001) := by unfold unusedNonzero; decide

/-- Third clause: the first reserved format as source and as destination. -/
theorem witness_FirstError_fmt :
    (¬ 6 ≤ field 0x00000061 3 0 ∧ ¬ unusedNonzero 0x00000061 ∧ badFormat 0x00000061) ∧
    (¬ 6 ≤ field 0x00000653 3 0 ∧ ¬ unusedNonzero 0x00000653 ∧ badFormat 0x00000653) := by
  unfold unusedNonzero badFormat; decide

/-- Fourth clause: the last legal formats and the last legal coordinates. -/
theorem witness_FirstError_none :
    (¬ 6 ≤ field 0x00000553 3 0 ∧ ¬ unusedNonzero 0x00000553 ∧ ¬ badFormat 0x00000553) ∧
    (¬ 6 ≤ field 0x0000F005 3 0 ∧ ¬ unusedNonzero 0x0000F005 ∧ ¬ badFormat 0x0000F005) := by
  unfold unusedNonzero badFormat; decide

theorem witness_AssemblerTextNamesOneInstruction :
    (Instr.etc1 3 0).tokens = [['E', 'T', 'C', '1'], ['3'], [','], ['0']] := by decide

theorem witness_StepRunsTheDecodedCommand :
    (busy [.write 0x00 4 0x0000F005]).pending = .write 0x00 4 0x0000F005 :: [] ∧
    decode 0x0000F005 = .ok (.etc1 3 3) := ⟨rfl, rfl⟩

theorem witness_FailedCommandWritesStatusAlone :
    (busy [.write 0x00 4 0x00000061]).pending = .write 0x00 4 0x00000061 :: [] ∧
    decode 0x00000061 = .error .illegalFmt := ⟨rfl, rfl⟩

theorem witness_IdleUnitHoldsItsRegisters : (busy []).pending = [] := rfl

/-- For `EventsAreTakenInIssueOrder` and `StepKeepsTheParameters`. -/
theorem witness_step_answers : ∃ t, step (busy [.reset, .read 0x3C 4]) = .next t := ⟨_, rfl⟩

theorem witness_SupportedRunNeverStops :
    (busy [.write 0x00 4 0xFFFFFFFF, .reset, .read 0x3C 4, .write 0x3C 4 1]).safe = true := by decide

/-- Both clauses at their boundaries: the last slot, the first offset beyond it, a misaligned offset, and
the sizes beside 4. -/
theorem witness_OtherAccessesAreRefused :
    (0x3C % 4 = 0 ∧ 0x3C < 0x40 ∧ (4 : Nat) = 4) ∧ ¬ (0x40 % 4 = 0 ∧ 0x40 < 0x40 ∧ (4 : Nat) = 4) ∧
    ¬ (0x3D % 4 = 0 ∧ 0x3D < 0x40 ∧ (4 : Nat) = 4) ∧ ¬ (0 % 4 = 0 ∧ 0 < 0x40 ∧ (2 : Nat) = 4) ∧
    ¬ (0 % 4 = 0 ∧ 0 < 0x40 ∧ (8 : Nat) = 4) ∧
    refusal (step (busy [.read 0x40 4])) = some .unsupportedAccess ∧
    refusal (step (busy [.write 0 2 0])) = some .unsupportedAccess ∧
    (after (step (busy [.write 0x3C 4 7]))).isSome = true ∧
    (busy [.straddlingAccess]).pending = .straddlingAccess :: [] := by decide

theorem witness_SecondHostAndAccessDuringResetAreRefused :
    (busy [.secondHostAccess]).pending = .secondHostAccess :: [] ∧
    (busy [.accessDuringReset]).pending = .accessDuringReset :: [] := ⟨rfl, rfl⟩

/-- The sixteen slots, each with its value in `busy`, in the statement's list. -/
theorem witness_HostReadReturnsTheRegister :
    (busy [.read 0x00 4]).pending = .read 0x00 4 :: [] ∧
    [(0x00, 0x6), (0x04, 0x12), (0x08, 0xA55B), (0x0C, 0x1234), (0x10, 0x40008000), (0x14, 0x80002000),
      (0x18, 0x40804080), (0x1C, 0x80804080), (0x20, 0x1F2FA453), (0x24, 0x0FF000FF),
      (0x28, 0xFFFFD8FF), (0x2C, 0), (0x30, 0), (0x34, 0), (0x38, 0), (0x3C, 0)].all
      (fun p => (after (step (busy [.read p.1 4]))).map State.hostReads == some [p.2, (1 : Word)]) = true := by
  decide

/-- Each slot is the target of exactly one clause: the offsets in the order of the clauses. -/
theorem witness_HostWriteByTarget :
    (busy [.write 0x3C 4 5]).pending = .write 0x3C 4 5 :: [] ∧
    ([0x00, 0x04, 0x08, 0x10, 0x14, 0x20, 0x24] ++ [0x0C, 0x18, 0x1C, 0x28] ++
      [0x2C, 0x30, 0x34, 0x38, 0x3C] : List Nat).Nodup ∧
    (after (step (busy [.write 0x08 4 5]))).map State.rawIn = some 5 ∧
    (after (step (busy [.write 0x28 4 5]))).map State.rgb8Out = some 0xFFFFD8FF := by decide

theorem witness_StatusWriteClearsErrorAlone :
    (busy [.write 0x04 4 2]).pending = .write 0x04 4 2 :: [] ∧ field 2 1 1 = 1 ∧
    field 0xFFFFFFFF 1 1 = 1 ∧ field 0xFFFFFFFD 1 1 = 0 := by decide

/-- For `DoneIsWrittenByCommandsAndResetOnly` and `ErrorBitsAreWrittenByFailureClearAndResetOnly`: a
command, a failing command, a clear, a reset, and another event, each answering a next state. -/
theorem witness_status_writers :
    decode 0x00000011 = .ok .decR8 ∧ decode 0x00000016 = .error .illegalOp ∧ field 2 1 1 = 1 ∧
    field 1 1 1 = 0 ∧ (busy []).status.err = true ∧
    [HostEvent.write 0x00 4 0x11, .write 0x00 4 0x16, .write 0x04 4 2, .write 0x04 4 1, .reset,
      .read 0x04 4].all (fun e => (after (step (busy [e]))).isSome) = true :=
  ⟨rfl, rfl, by decide, by decide, rfl, by decide⟩

theorem witness_RepeatedAccessChangesNoRegister :
    (busy [.write 0x00 4 0x41, .write 0x00 4 0x41]).pending =
      .write 0x00 4 0x41 :: .write 0x00 4 0x41 :: [] ∧
    (∃ t, step (busy [.write 0x00 4 0x41, .write 0x00 4 0x41]) = .next t) ∧
    ∃ t, step (busy [.read 0x3C 4, .read 0x3C 4]) = .next t :=
  ⟨rfl, ⟨_, rfl⟩, _, rfl⟩

/-- A window at 64: its last byte; two and four bytes below it with the sizes that run in by two and four
bytes (R52's misaligned and wider accesses); the access that ends just below it; and the first address
beyond it. -/
theorem witness_BusAddressReachesTheWindowOffset :
    (0x3F < 0x40 ∧ 127 = 64 + 0x3F) ∧ (62 < 64 ∧ 64 < 62 + 4) ∧ (60 < 64 ∧ 64 < 60 + 8) ∧
    (60 < 64 ∧ 60 + 4 ≤ 64) ∧ 64 + 0x40 ≤ 128 ∧ (busy []).pending = [] := by decide

/-- A read two bytes below the window is refused (R52). -/
theorem test_straddling_access :
    refusal (step (busReadAt 64 62 4 State.reset)) = some .unsupportedAccess ∧
    refusal (step (busWriteAt 64 60 8 0 State.reset)) = some .unsupportedAccess ∧
    (busReadAt 64 60 4 State.reset).pending = [] := by decide

/-- For the statements about a command from `s` to a next state, and their clauses on results. -/
theorem witness_exec_answers :
    (∃ t, exec .decRgba5551 (busy []) = .next t) ∧ Reg.canOutRg ∈ resultRegs .decRgba5551 ∧
    (∃ t, exec (.etc1 0 2) (busy []) = .next t) ∧ Reg.canOutRg ∈ resultRegs (.etc1 0 2) ∧
    (∃ t, exec (.zero .r8) (busy []) = .next t) ∧ Reg.canOutRg ∈ resultRegs (.zero .r8) ∧
    Reg.rawIn ∉ resultRegs (.zero .r8) ∧ Reg.rawIn ≠ Reg.status :=
  ⟨⟨_, rfl⟩, by decide, ⟨_, rfl⟩, by decide, ⟨_, rfl⟩, by decide, by decide, by decide⟩

/-- The clause of `CommandWritesOnlyItsResults` on a failed command. -/
theorem witness_failed_command_answers :
    (busy [.write 0x00 4 0x100]).pending = .write 0x00 4 0x100 :: [] ∧
    decode 0x100 = .error .rsvdField ∧ ∃ t, step (busy [.write 0x00 4 0x100]) = .next t :=
  ⟨rfl, rfl, _, rfl⟩

/-- Two units that agree on the operands and parameters of a command and on nothing else: those of
ENC.GA88, of ETC1 and of ZERO. -/
theorem witness_ResultsDependOnOperandsAlone :
    ((∀ r ∈ operandRegs .encGa88, readReg r (busy []) = readReg r (withCan 0x8000 0x4000 0x2000 0x8000)) ∧
      agreeOnParamsOf .encGa88 (busy []).params ⟨.mulDiv, .high, .doc⟩) ∧
    ((∀ r ∈ operandRegs (.etc1 0 2),
      readReg r (busy []) = readReg r (withBlock 0x1F2FA453 0x0FF000FF)) ∧
      agreeOnParamsOf (.etc1 0 2) (busy []).params ⟨.mulDiv, .low, .standard⟩) ∧
    ((∀ r ∈ operandRegs (.zero .r8), readReg r (busy []) = readReg r State.reset) ∧
      agreeOnParamsOf (.zero .r8) (busy []).params State.reset.params) ∧
    (∃ t, exec .encGa88 (busy []) = .next t) ∧ Reg.rawOut ∈ resultRegs .encGa88 := by
  refine ⟨⟨by decide, ?_⟩, ⟨by decide, ?_⟩, ⟨by decide, ?_⟩, ⟨_, rfl⟩, by decide⟩ <;>
    simp [agreeOnParamsOf, usesScaleMode, usesEncAlphaBits, usesEtc1DiffMap, busy, otherParams]

/-- CONV between equal formats reads no parameter; from RGB565 to GA88 it reads two. -/
theorem witness_ResultsDependOnOperandsAlone_conv :
    agreeOnParamsOf (.conv .rgb565 .rgb565) otherParams Params.default ∧
    agreeOnParamsOf (.conv .rgb565 .ga88) otherParams ⟨.quotFirst, .high, .doc⟩ ∧
    ¬ agreeOnParamsOf (.conv .rgb565 .ga88) otherParams ⟨.mulDiv, .high, .doc⟩ := by
  simp [agreeOnParamsOf, usesScaleMode, usesEncAlphaBits, usesEtc1DiffMap, otherParams]

theorem witness_NopCompletesWithoutEffect : field 0x10 3 0 = 0 ∧ (0x10 : Word) ≠ 0 ∧
    field 0x80000000 3 0 = 0 := by decide

/-- Alpha 0 and alpha 1. -/
theorem witness_DecRgba5551Result : field (withRaw 0xFFFE).rawIn 0 0 = 0 ∧
    field (withRaw 0x0001).rawIn 0 0 = 1 := by decide

/-- Both cases, at the first and the last format. -/
theorem witness_ConvIsIdentityOrDecodeThenEncode :
    Fmt.ofCode? 5 = some .bgra8888 ∧ Fmt.ofCode? 0 = some .ga88 ∧ Fmt.bgra8888 = Fmt.bgra8888 ∧
    Fmt.ga88 ≠ Fmt.bgra8888 := by decide

theorem witness_RoundTripAtFullAlphaIsExact : field 0xFF00 15 8 = 0xFF ∧ field 0xFF000000 31 24 = 0xFF := by
  decide

theorem witness_AlphaCornerLaws : (Color.mk 0x1234 0x5678 0x9ABC 0).a = 0 ∧
    (Color.mk 0x1234 0x5678 0x9ABC 0xFFFF).a = 0xFFFF := ⟨rfl, rfl⟩

/-- The last byte of the longest pixel and of a block. -/
theorem witness_StoredBytesLieLittleEndian :
    3 < ([1, 2, 3, 4] : List Byte).length ∧ ([1, 2, 3, 4] : List Byte).length ≤ 4 ∧
    7 < ([1, 2, 3, 4, 5, 6, 7, 8] : List Byte).length ∧
    ([1, 2, 3, 4, 5, 6, 7, 8] : List Byte).length = 8 := by decide

/-- The max edge itself and the pixel before the min edge are outside; the last pixel is inside. -/
theorem witness_PixelOutsideTheImageTouchesNothing :
    Rectangle.contains .outside ⟨0, 0, 2, 1⟩ 2 0 = false ∧
    Rectangle.contains .outside ⟨0, 0, 2, 1⟩ (-1) 0 = false ∧
    Rectangle.contains .outside ⟨0, 0, 2, 1⟩ 1 0 = true ∧
    Rectangle.contains .inside ⟨0, 0, 2, 1⟩ 3 1 = false ∧
    Rectangle.contains .inside ⟨0, 0, 2, 1⟩ 2 1 = true ∧ Rectangle.wf ⟨0, 0, 2, 1⟩ = true := by decide

/-- The last pixel of the spec's 6 by 5 image and the last byte of its block. -/
theorem witness_BlockLayoutOfEveryPixel :
    5 < 6 ∧ 4 < 5 ∧ (List.replicate 32 (7 : Byte)).length = blockPayload 6 5 ∧ 7 < 8 ∧
    blockOffset 6 4 4 = blockOffset 6 5 4 ∧ localCoords 4 4 ≠ localCoords 5 4 := by decide

/-- A block image of 6 by 5 pixels with its min corner at (-1, 0): the pixel beyond the right edge, whose
block is in the payload, has no operands (95_test_vectors.md section 6), and the last one has. -/
theorem test_block_bounds :
    BlockImage.operands? .outside ⟨List.replicate 32 7, ⟨-1, 0, 5, 5⟩⟩ 5 4 = none ∧
    BlockImage.operands? .outside ⟨List.replicate 32 7, ⟨-1, 0, 5, 5⟩⟩ 4 4 =
      some ((0x07070707, 0x07070707), (1, 0)) := by decide

/-- A pixel of each side of the Rectangle of a block image of the size its payload has. -/
theorem witness_block_image :
    BlockImage.wf .outside ⟨List.replicate 32 7, ⟨-1, 0, 5, 5⟩⟩ = true ∧
    Rectangle.contains .outside ⟨-1, 0, 5, 5⟩ 4 4 = true ∧
    Rectangle.contains .outside ⟨-1, 0, 5, 5⟩ 5 4 = false := by decide

/-- For `PlanarPixelLiesAtItsOffset`, `SetPixelStoresItsBytesAlone` and
`PixelInsideTheImageIsWhatTheCommandWrites`: the last pixel, whose bytes end
the buffer. -/
theorem witness_planar_pixel :
    twoPixels.rect.contains .outside 1 0 = true ∧ twoPixels.wf .outside = true ∧
    (twoPixels.rect.size .outside).1 * pixelBytes twoPixels.fmt ≤ twoPixels.stride ∧
    (twoPixels.pixelOffset 1 0).toNat + pixelBytes twoPixels.fmt ≤ twoPixels.buffer.length ∧
    1 < pixelBytes twoPixels.fmt := by decide

end Sys2Proof.Tests
end

section
/-! SUPPORT. Who writes STATUS and the result registers (10_state.md): the equation of each event that
writes STATUS, the one case analysis of a step's STATUS, and the frame of a command. -/

open Sys2Proof.Claims

namespace Sys2Proof.Machine

variable {s t : State}

/-! ### STATUS under the shared operations -/

@[simp] theorem raiseCmdError_status (e : CmdError) :
    (raiseCmdError e s).status = s.status.fail e := rfl

@[simp] theorem takeReset_status : (takeReset s).status = .cleared := rfl

@[simp] theorem hostRead_status (u : Slot) : (hostRead u s).status = s.status := rfl

@[simp] theorem statusWrite_status (v : Word) :
    (statusWrite v s).status = s.status.hostWrite v := rfl

theorem hostWrite_status_of_ne {u : Slot} (v : Word) (h : u ≠ .reg .status) :
    (hostWrite u v s).status = s.status := by
  obtain ⟨r, rfl, hw⟩ | ⟨rfl, hw⟩ := hostWrite_cases s u v <;> rw [hw]
  cases r
  case status => exact absurd rfl h
  all_goals rfl

@[simp] theorem Status.hostWrite_done (v : Word) (st : Status) :
    (st.hostWrite v).done = st.done := by
  unfold Status.hostWrite
  split <;> rfl

theorem Status.hostWrite_of_set {v : Word} (st : Status) (h : v[1] = true) :
    st.hostWrite v = ⟨st.done, false, none⟩ := if_pos h

theorem Status.hostWrite_of_clear {v : Word} (st : Status) (h : v[1] = false) :
    st.hostWrite v = st := if_neg (by simp [h])

/-- A field of one bit, as the obligations write it, is that bit. -/
theorem field_bit (v : Word) {i : Nat} (h : i < 32) : field v i i = v[i].toNat := by
  rw [field, Nat.add_sub_cancel_left, pow_one, ← BitVec.getLsbD_eq_getElem h, BitVec.getLsbD,
    Nat.testBit_eq_decide_div_mod_eq]
  rcases Nat.mod_two_eq_zero_or_one (v.toNat / 2 ^ i) with hb | hb <;> simp [hb]

/-! ### Commands -/

/-- No instruction is left without a meaning, and none reads STATUS to decide whether to run. -/
theorem exec_answers (i : Instr) (s : State) : ∃ t, exec i s = .next t := by
  obtain h | ⟨_, h⟩ | ⟨_, h⟩ | ⟨_, h⟩ | ⟨_, h⟩ := exec_cases s i <;> exact ⟨_, h⟩

/-- The frame of a command: STATUS changes in DONE alone, and beside it at most the four output
registers change (R24, R25, R33). -/
theorem exec_frame {i : Instr} (h : exec i s = .next t) :
    t = { s with
      rawOut := t.rawOut
      canOutRg := t.canOutRg
      canOutBa := t.canOutBa
      rgb8Out := t.rgb8Out
      status := s.status.complete } := by
  obtain hx | ⟨_, hx⟩ | ⟨_, hx⟩ | ⟨_, hx⟩ | ⟨_, hx⟩ := exec_cases s i <;>
    cases hx.symm.trans h <;> rfl

theorem exec_status {i : Instr} (h : exec i s = .next t) : t.status = s.status.complete := by
  rw [exec_frame h]

@[simp] theorem resultRegs_decOf (f : Fmt) : resultRegs (.decOf f) = [.canOutRg, .canOutBa] := by
  cases f <;> rfl

@[simp] theorem resultRegs_encOf (f : Fmt) : resultRegs (.encOf f) = [.rawOut] := by
  cases f <;> rfl

theorem readReg_finishCanon (c : Color) {r : Reg} (hr : r ∉ [.canOutRg, .canOutBa, .status]) :
    readReg r (finishCanon c s) = readReg r s := by
  cases r
  case canOutRg | canOutBa | status => simp at hr
  all_goals rfl

theorem readReg_finishRaw (raw : Word) {r : Reg} (hr : r ∉ [.rawOut, .status]) :
    readReg r (finishRaw raw s) = readReg r s := by
  cases r
  case rawOut | status => simp at hr
  all_goals rfl

theorem readReg_setStatus (st : Status) {r : Reg} (hr : r ≠ .status) :
    readReg r (s.setStatus st) = readReg r s := by
  cases r
  case status => exact absurd rfl hr
  all_goals rfl

theorem readReg_setCmd (v : Word) {r : Reg} (hr : r ≠ .cmd) :
    readReg r (s.setCmd v) = readReg r s := by
  cases r
  case cmd => exact absurd rfl hr
  all_goals rfl

theorem readReg_setRawOut (v : Word) {r : Reg} (hr : r ≠ .rawOut) :
    readReg r (s.setRawOut v) = readReg r s := by
  cases r
  case rawOut => exact absurd rfl hr
  all_goals rfl

theorem readReg_setRgb8Out (v : Word) {r : Reg} (hr : r ≠ .rgb8Out) :
    readReg r (s.setRgb8Out v) = readReg r s := by
  cases r
  case rgb8Out => exact absurd rfl hr
  all_goals rfl

@[simp] theorem readReg_setPending (es : List HostEvent) (r : Reg) :
    readReg r (s.setPending es) = readReg r s := by cases r <;> rfl

/-- A command keeps every register but STATUS that its rule does not name as a result (R33). -/
theorem exec_keeps_readReg {i : Instr} (h : exec i s = .next t) {r : Reg} (hr : r ∉ resultRegs i)
    (hst : r ≠ .status) : readReg r t = readReg r s := by
  obtain rfl | ⟨f, rfl⟩ | ⟨f, rfl⟩ | ⟨f, g, rfl⟩ | ⟨f, rfl⟩ | ⟨lx, ly, rfl⟩ := instr_cases i
  · cases h
    exact readReg_setStatus _ hst
  · cases (exec_decOf s f).symm.trans h
    exact readReg_finishCanon _ (by simpa [hst] using hr)
  · cases (exec_encOf s f).symm.trans h
    exact readReg_finishRaw _ (by simpa [hst] using hr)
  · cases (exec_conv s f g).symm.trans h
    exact readReg_finishRaw _ (by simpa [resultRegs, hst] using hr)
  · obtain ⟨hraw, hcan⟩ : r ≠ .rawOut ∧ r ∉ [Reg.canOutRg, .canOutBa] := by
      simpa [resultRegs] using hr
    cases (exec_zero s f).symm.trans h
    rw [readReg_finishCanon _ (by simpa [hst] using hcan), readReg_setRawOut _ hraw]
  · obtain ⟨hrgb, hcan⟩ : r ≠ .rgb8Out ∧ r ∉ [Reg.canOutRg, .canOutBa] := by
      simpa [resultRegs] using hr
    cases (exec_etc1 s lx ly).symm.trans h
    rw [readReg_finishCanon _ (by simpa [hst] using hcan), readReg_setRgb8Out _ hrgb]

/-! ### Steps that write STATUS -/

theorem step_cmdWrite {v : Word} {es : List HostEvent} (h : s.pending = .write 0x00 4 v :: es) :
    step s = execute v ((s.setPending es).setCmd v) := step_event h

theorem step_command {v : Word} {es : List HostEvent} {i : Instr}
    (h : s.pending = .write 0x00 4 v :: es) (hd : decode v = .ok i) :
    step s = exec i ((s.setPending es).setCmd v) := by
  rw [step_cmdWrite h, execute, hd]

theorem step_failedCommand {v : Word} {es : List HostEvent} {e : CmdError}
    (h : s.pending = .write 0x00 4 v :: es) (hd : decode v = .error e) :
    step s = .next (raiseCmdError e ((s.setPending es).setCmd v)) := by
  rw [step_cmdWrite h, execute, hd]

theorem step_statusWrite {v : Word} {es : List HostEvent} (h : s.pending = .write 0x04 4 v :: es) :
    step s = .next (statusWrite v (s.setPending es)) := step_event h

theorem step_reset {es : List HostEvent} (h : s.pending = .reset :: es) :
    step s = .next (takeReset (s.setPending es)) := step_event h

theorem status_of_step_command {v : Word} {es : List HostEvent} {i : Instr}
    (hp : s.pending = .write 0x00 4 v :: es) (hd : decode v = .ok i) (h : step s = .next t) :
    t.status = s.status.complete := by
  simpa using exec_status ((step_command hp hd).symm.trans h)

theorem status_of_step_failedCommand {v : Word} {es : List HostEvent} {e : CmdError}
    (hp : s.pending = .write 0x00 4 v :: es) (hd : decode v = .error e) (h : step s = .next t) :
    t.status = s.status.fail e := by
  cases (step_failedCommand hp hd).symm.trans h
  simp

theorem status_of_step_statusWrite {v : Word} {es : List HostEvent}
    (hp : s.pending = .write 0x04 4 v :: es) (h : step s = .next t) :
    t.status = s.status.hostWrite v := by
  cases (step_statusWrite hp).symm.trans h
  simp

theorem status_of_step_reset {es : List HostEvent} (hp : s.pending = .reset :: es)
    (h : step s = .next t) : t.status = .cleared := by
  cases (step_reset hp).symm.trans h
  simp

/-- Every writer of STATUS: a command, a failed command, a host write of STATUS, and reset. -/
theorem step_status_cases (h : step s = .next t) :
    (∃ v es i, s.pending = .write 0x00 4 v :: es ∧ decode v = .ok i ∧
      t.status = s.status.complete) ∨
    (∃ v es e, s.pending = .write 0x00 4 v :: es ∧ decode v = .error e ∧
      t.status = s.status.fail e) ∨
    (∃ v es, s.pending = .write 0x04 4 v :: es ∧ t.status = s.status.hostWrite v) ∨
    (∃ es, s.pending = .reset :: es ∧ t.status = .cleared) ∨
    t.status = s.status := by
  obtain ⟨-, rfl⟩ | ⟨e, es, hp, hcase⟩ := step_cases h
  · simp
  obtain ⟨_, _, u, rfl, -, rfl⟩ | ⟨_, _, v, u, rfl, hu, -, rfl⟩ | ⟨v, i, rfl, hd, -⟩ |
    ⟨v, c, rfl, hd, -⟩ | ⟨rfl, -⟩ := hcase
  case inl => simp
  case inr.inl =>
    by_cases hs : u = .reg .status
    · subst hs
      obtain ⟨rfl, rfl⟩ := slotOf?_eq_reg hu
      exact .inr (.inr (.inl ⟨v, es, hp, status_of_step_statusWrite hp h⟩))
    · simp [hostWrite_status_of_ne v hs]
  case inr.inr.inl => exact .inl ⟨v, es, i, hp, hd, status_of_step_command hp hd h⟩
  case inr.inr.inr.inl =>
    exact .inr (.inl ⟨v, es, c, hp, hd, status_of_step_failedCommand hp hd h⟩)
  case inr.inr.inr.inr =>
    exact .inr (.inr (.inr (.inl ⟨es, hp, status_of_step_reset hp h⟩)))

/-- Only commands and reset write DONE (R24). -/
theorem step_keeps_done (h : step s = .next t) (hcmd : ∀ v es, s.pending ≠ .write 0x00 4 v :: es)
    (hreset : ∀ es, s.pending ≠ .reset :: es) : t.status.done = s.status.done := by
  obtain ⟨v, es, _, hp, -⟩ | ⟨v, es, _, hp, -⟩ | ⟨v, _, -, ht⟩ | ⟨es, hp, -⟩ | ht :=
    step_status_cases h
  · exact absurd hp (hcmd v es)
  · exact absurd hp (hcmd v es)
  · rw [ht, Status.hostWrite_done]
  · exact absurd hp (hreset es)
  · rw [ht]

/-- Only a failure, a STATUS write with bit 1 set, and reset write ERR and ECODE (R25, R201). -/
theorem step_keeps_errorBits (h : step s = .next t)
    (hfail : ∀ v es e, s.pending = .write 0x00 4 v :: es → decode v ≠ .error e)
    (hclear : ∀ v es, s.pending = .write 0x04 4 v :: es → v[1] = false)
    (hreset : ∀ es, s.pending ≠ .reset :: es) :
    t.status.err = s.status.err ∧ t.status.ecode = s.status.ecode := by
  obtain ⟨_, _, _, -, -, ht⟩ | ⟨v, es, e, hp, hd, -⟩ | ⟨v, es, hp, ht⟩ | ⟨es, hp, -⟩ | ht :=
    step_status_cases h
  · simp [ht, Status.complete]
  · exact absurd hd (hfail v es e hp)
  · simp [ht, Status.hostWrite_of_clear _ (hclear v es hp)]
  · exact absurd hp (hreset es)
  · simp [ht]

end Sys2Proof.Machine
end

section
/-! The obligations of 10_state.md on DONE, on ERR and ECODE, and on a command's result registers. -/

open Sys2Proof Sys2Proof.Machine Sys2Proof.Claims

namespace Sys2Proof.Proofs

/-- Settles O24: the STATUS of each kind of step that writes DONE, and the frame of all others. -/
theorem doneIsWrittenByCommandsAndResetOnly :
    Obligations.DoneIsWrittenByCommandsAndResetOnly := by
  intro s t h
  refine ⟨?command, ?failure, ?reset, step_keeps_done h⟩
  case command =>
    intro v es i hp hd
    simp [status_of_step_command hp hd h, Status.complete]
  case failure =>
    intro v es e hp hd
    simp [status_of_step_failedCommand hp hd h, Status.fail]
  case reset =>
    intro es hp
    simp [status_of_step_reset hp h, Status.cleared]

/-- Settles O25: the STATUS of each kind of step that writes ERR, and the frame of all others; no
command's answer depends on STATUS. -/
theorem errorBitsAreWrittenByFailureClearAndResetOnly :
    Obligations.ErrorBitsAreWrittenByFailureClearAndResetOnly := by
  refine ⟨fun s i _ => exec_answers i s, fun s t h => ⟨?failure, ?clear, ?reset, ?others⟩⟩
  case failure =>
    intro v es e hp hd
    simp [status_of_step_failedCommand hp hd h, Status.fail]
  case clear =>
    intro v es hp hv
    have hbit : v[1] = true := by simpa [field_bit] using hv
    simp [status_of_step_statusWrite hp h, Status.hostWrite_of_set _ hbit]
  case reset =>
    intro es hp
    simp [status_of_step_reset hp h, Status.cleared]
  case others =>
    intro hfail hclear
    exact step_keeps_errorBits h hfail fun v es hp => by simpa [field_bit] using hclear v es hp

/-- Settles O28: the frame of `exec`, and of `raiseCmdError` for a failed command. -/
theorem commandWritesOnlyItsResults : Obligations.CommandWritesOnlyItsResults := by
  refine ⟨fun i s t h => ⟨fun r => exec_keeps_readReg h, ?frame⟩, ?failed⟩
  case frame =>
    rw [exec_frame h]
    simp [Status.complete]
  case failed =>
    intro s t v es e hp hd h r hcmd hst
    cases (step_failedCommand hp hd).symm.trans h
    rw [raiseCmdError, readReg_setStatus _ hst, readReg_setCmd _ hcmd, readReg_setPending]

end Sys2Proof.Proofs
end

section
/-! SUPPORT. Host accesses of the window (20_memory.md): which accesses have a slot, and one equation
for the step of a read and of a write of each kind of slot. -/

namespace Sys2Proof.Machine

variable {s : State} {es : List HostEvent} {off size : Nat} {v : Word} {u : Slot}

/-! ### Slots -/

/-- The offsets of the reserved slots (R21, R51). -/
def reservedOffsets : List Nat := [0x2C, 0x30, 0x34, 0x38, 0x3C]

/-- The registers that a host write does not change (R21, R54). -/
def Reg.readOnly : List Reg := [.rawOut, .canOutRg, .canOutBa, .rgb8Out]

theorem slotOf?_eq_none_iff : slotOf? off size = none ↔ ¬ (off % 4 = 0 ∧ off < 0x40 ∧ size = 4) := by
  rw [← slotOf?_isSome, Option.not_isSome_iff_eq_none]

theorem slotOf?_reserved : ∀ off ∈ reservedOffsets, slotOf? off 4 = some .reserved := by decide

theorem writeReg_readOnly {r : Reg} (hr : r ∈ Reg.readOnly) (v : Word) (s : State) :
    writeReg r v s = s := by
  simp only [Reg.readOnly, List.mem_cons, List.not_mem_nil, or_false] at hr
  obtain rfl | rfl | rfl | rfl := hr <;> rfl

theorem cmd_not_mem_readOnly : Reg.cmd ∉ Reg.readOnly := by decide

/-! ### Steps that read -/

theorem step_read (h : s.pending = .read off size :: es) (hu : slotOf? off size = some u) :
    step s = .next (hostRead u (s.setPending es)) := by
  rw [step_event h, takeEvent, hu]

theorem step_read_refused (h : s.pending = .read off size :: es) (hu : slotOf? off size = none) :
    step s = .refused .unsupportedAccess := by
  rw [step_event h, takeEvent, hu]

theorem step_readReg {r : Reg} (h : s.pending = .read r.offset 4 :: es) :
    step s = .next { s with pending := es, hostReads := readReg r s :: s.hostReads } := by
  rw [step_read h (slotOf?_offset r), hostRead_eq, readSlot, readReg_setPending]
  rfl

theorem step_readReserved (h : s.pending = .read off 4 :: es) (hoff : off ∈ reservedOffsets) :
    step s = .next { s with pending := es, hostReads := 0 :: s.hostReads } :=
  step_read h (slotOf?_reserved off hoff)

/-! ### Steps that write -/

theorem execute_answers (v : Word) (s : State) : ∃ t, execute v s = .next t := by
  unfold execute
  split
  · exact exec_answers _ s
  · exact ⟨_, rfl⟩

theorem step_write (h : s.pending = .write off size v :: es) (hu : slotOf? off size = some u)
    (hcmd : u ≠ .reg .cmd) : step s = .next (hostWrite u v (s.setPending es)) := by
  have hl : launches u = false := by simpa [launches] using hcmd
  rw [step_event h, takeEvent, hu]
  simp [hl]

theorem step_write_refused (h : s.pending = .write off size v :: es) (hu : slotOf? off size = none) :
    step s = .refused .unsupportedAccess := by
  rw [step_event h, takeEvent, hu]

/-- A supported write answers, whether it launches a command or not. -/
theorem step_write_answers (h : s.pending = .write off size v :: es)
    (hu : slotOf? off size = some u) : ∃ t, step s = .next t := by
  by_cases hcmd : u = .reg .cmd
  · subst hcmd
    obtain ⟨rfl, rfl⟩ := slotOf?_eq_reg hu
    rw [step_cmdWrite h]
    exact execute_answers v _
  · exact ⟨_, step_write h hu hcmd⟩

theorem step_writeReg {r : Reg} (h : s.pending = .write r.offset 4 v :: es) (hr : r ≠ .cmd) :
    step s = .next (writeReg r v (s.setPending es)) :=
  step_write h (slotOf?_offset r) (by simpa using hr)

theorem step_writeReadOnly {r : Reg} (h : s.pending = .write r.offset 4 v :: es)
    (hr : r ∈ Reg.readOnly) : step s = .next (s.setPending es) := by
  rw [step_writeReg h (ne_of_mem_of_not_mem hr cmd_not_mem_readOnly), writeReg_readOnly hr]

theorem step_writeReserved (h : s.pending = .write off 4 v :: es) (hoff : off ∈ reservedOffsets) :
    step s = .next (s.setPending es) :=
  step_write h (slotOf?_reserved off hoff) (by simp)

end Sys2Proof.Machine
end

section
/-! The obligations of 20_memory.md on unsupported accesses, host reads and host writes. -/

open Sys2Proof Sys2Proof.Machine

namespace Sys2Proof.Proofs

/-- Settles O18: an access without a slot is refused, a read or a write of a slot answers. -/
theorem otherAccessesAreRefused : Obligations.OtherAccessesAreRefused := by
  refine fun s es => ⟨fun off size v e hp he => ⟨fun hbad => ?refused, fun hok => ?answers⟩, step_event⟩
  case refused =>
    have hnone := slotOf?_eq_none_iff.2 hbad
    obtain rfl | rfl := he
    · exact step_read_refused hp hnone
    · exact step_write_refused hp hnone
  case answers =>
    obtain ⟨u, hu⟩ := Option.isSome_iff_exists.1 ((slotOf?_isSome off size).2 hok)
    obtain rfl | rfl := he
    · exact ⟨_, step_read hp hu⟩
    · exact step_write_answers hp hu

/-- Settles O21: the table's rows are the registers at their offsets, and the reserved slots. -/
theorem hostReadReturnsTheRegister : Obligations.HostReadReturnsTheRegister := by
  intro s es off v hp hrow
  have hrow : (off, v) ∈ Reg.all.map (fun r => (r.offset, readReg r s)) ++
      reservedOffsets.map (fun o => (o, 0)) := hrow
  obtain hreg | hres := List.mem_append.1 hrow
  · obtain ⟨r, -, hr⟩ := List.mem_map.1 hreg
    cases hr
    exact step_readReg hp
  · obtain ⟨o, ho, hr⟩ := List.mem_map.1 hres
    cases hr
    exact step_readReserved hp ho

/-- Settles O22: CMD launches the word, and every other slot is a plain `hostWrite`. -/
theorem hostWriteByTarget : Obligations.HostWriteByTarget := by
  intro s es off v hp
  refine ⟨?cmd, ?status, ?rawIn, ?canInRg, ?canInBa, ?blkIn0, ?blkIn1, ?readOnly, ?reserved⟩
  case cmd => rintro rfl; exact step_cmdWrite hp
  case status => rintro rfl; exact step_statusWrite hp
  case rawIn => rintro rfl; exact step_writeReg (r := .rawIn) hp (by decide)
  case canInRg => rintro rfl; exact step_writeReg (r := .canInRg) hp (by decide)
  case canInBa => rintro rfl; exact step_writeReg (r := .canInBa) hp (by decide)
  case blkIn0 => rintro rfl; exact step_writeReg (r := .blkIn0) hp (by decide)
  case blkIn1 => rintro rfl; exact step_writeReg (r := .blkIn1) hp (by decide)
  case readOnly =>
    intro (hoff : off ∈ Reg.readOnly.map Reg.offset)
    obtain ⟨r, hr, rfl⟩ := List.mem_map.1 hoff
    exact step_writeReadOnly hp hr
  case reserved => exact step_writeReserved hp

end Sys2Proof.Proofs
end

section
/-! SUPPORT. Packed decode (40_packed_decode.md): the spec's notation of the obligations in the model's
own terms, and the one rule for a DEC command whose colour is premultiplied. -/

open Sys2Proof.Claims

namespace Sys2Proof.Machine

variable {s : State}

theorem field_eq_bits (v : Word) {hi lo : Nat} (h : lo ≤ hi) : field v hi lo = bits v hi lo := by
  rw [bits_eq, field, Nat.sub_add_comm h]

@[simp] theorem scaled_eq_scale (m : ScaleMode) (f W : Nat) : scaled m f W = scale m f W := by
  cases m <;> rfl

/-- A scaled field fits a channel when `W` is the full scale of the field's width (R100). -/
theorem scale_bits_le (m : ScaleMode) (v : Word) (hi lo : Nat) :
    scale m (bits v hi lo) (fullScale (hi - lo + 1)) ≤ 0xFFFF :=
  scale_le m (Nat.le_sub_one_of_lt (bits_lt v hi lo))

/-- A premultiplied colour with exact channel values reaches CAN_OUT without loss (R29, R30, R108). -/
theorem canonDone_finishCanon {r g b a : Nat} (ha : a ≤ 0xFFFF) (hr : r ≤ a) (hg : g ≤ a)
    (hb : b ≤ a) : CanonDone s (finishCanon (Color.ofNats r g b a) s) r g b a := by
  refine ⟨rfl, ?rg, ?ba⟩
  case rg =>
    show (Color.ofNats r g b a).rg.toNat = g * 2 ^ 16 + r
    rw [rg_toNat, Color.ofNats, ofNat16_toNat (hr.trans ha), ofNat16_toNat (hg.trans ha)]
  case ba =>
    show (Color.ofNats r g b a).ba.toNat = a * 2 ^ 16 + b
    rw [ba_toNat, Color.ofNats, ofNat16_toNat (hb.trans ha), ofNat16_toNat ha]

/-- DEC.f, once the colour of the format is known in exact channel values (R101 to R106). -/
theorem exec_decOf_canonDone {f : Fmt} {r g b a : Nat}
    (hcolour : decodeFmt s.params f s.rawIn = Color.ofNats r g b a) (ha : a ≤ 0xFFFF) (hr : r ≤ a)
    (hg : g ≤ a) (hb : b ≤ a) : ∃ t, exec (.decOf f) s = .next t ∧ CanonDone s t r g b a :=
  ⟨_, exec_decOf s f, hcolour ▸ canonDone_finishCanon ha hr hg hb⟩

end Sys2Proof.Machine
end

section
/-! The obligations of 40_packed_decode.md on the five formats whose field positions the source gives. -/

open Sys2Proof Sys2Proof.Machine

namespace Sys2Proof.Proofs

/-- Settles O32: the gray is premultiplied, so it fits its channels. -/
theorem decGa88Result : Obligations.DecGa88Result := by
  refine ⟨rfl, fun s => ?_⟩
  simp (disch := decide) only [field_eq_bits]
  have hgray := premul8_le (bits s.rawIn 15 8) (bits_lt s.rawIn 7 0)
  exact exec_decOf_canonDone (f := .ga88) rfl (rep8_le (bits_lt s.rawIn 15 8)) hgray hgray hgray

/-- Settles O33: an expanded byte is at most the opaque alpha. -/
theorem decR8Result : Obligations.DecR8Result := by
  refine ⟨rfl, fun s => ?_⟩
  simp (disch := decide) only [field_eq_bits]
  exact exec_decOf_canonDone (f := .r8) rfl le_rfl (rep8_le (bits_lt s.rawIn 7 0))
    (Nat.zero_le _) (Nat.zero_le _)

/-- Settles O34: a scaled field is at most the opaque alpha, in both scale modes. -/
theorem decRgb565Result : Obligations.DecRgb565Result := by
  refine ⟨rfl, fun s => ?_⟩
  simp (disch := decide) only [field_eq_bits, scaled_eq_scale]
  exact exec_decOf_canonDone (f := .rgb565) rfl le_rfl (scale_bits_le _ s.rawIn 15 11)
    (scale_bits_le _ s.rawIn 10 5) (scale_bits_le _ s.rawIn 4 0)

/-- Settles O35: each nibble is premultiplied, so it fits its channel. -/
theorem decRgba4444Result : Obligations.DecRgba4444Result := by
  refine ⟨rfl, fun s => ?_⟩
  simp (disch := decide) only [field_eq_bits]
  exact exec_decOf_canonDone (f := .rgba4444) rfl (rep4_le (bits_lt s.rawIn 3 0))
    (premul4_le _ (bits_lt s.rawIn 15 12)) (premul4_le _ (bits_lt s.rawIn 11 8))
    (premul4_le _ (bits_lt s.rawIn 7 4))

/-- Settles O37: each byte is premultiplied, so it fits its channel. -/
theorem decBgra8888Result : Obligations.DecBgra8888Result := by
  refine ⟨rfl, fun s => ?_⟩
  simp (disch := decide) only [field_eq_bits]
  exact exec_decOf_canonDone (f := .bgra8888) rfl (rep8_le (bits_lt s.rawIn 31 24))
    (premul8_le _ (bits_lt s.rawIn 23 16)) (premul8_le _ (bits_lt s.rawIn 15 8))
    (premul8_le _ (bits_lt s.rawIn 7 0))

end Sys2Proof.Proofs
end

section
/-! SUPPORT. Packed encode, CONV and ZERO (41_packed_encode.md): the channels of CAN_IN, the fields of R131
and R133 and the words of the ENC commands as numbers, and what CONV and ZERO compute. -/

open Sys2Proof.Claims

namespace Sys2Proof.Machine

variable {s : State}

/-! ### The operand colour -/

@[simp] theorem inR_eq_canIn : inR s = (canIn s).r.toNat := field_eq_bits s.canInRg (by decide)

@[simp] theorem inG_eq_canIn : inG s = (canIn s).g.toNat := field_eq_bits s.canInRg (by decide)

@[simp] theorem inB_eq_canIn : inB s = (canIn s).b.toNat := field_eq_bits s.canInBa (by decide)

@[simp] theorem inA_eq_canIn : inA s = (canIn s).a.toNat := field_eq_bits s.canInBa (by decide)

/-- Moving an RG and a BA word to CAN_IN hands their colour to ENC (R29, R30). -/
theorem canIn_of_words (c : Color) : canIn { s with canInRg := c.rg, canInBa := c.ba } = c :=
  ofWords_rg_ba c

/-! ### The packed fields -/

theorem alphaField_toNat (m : EncAlphaBits) (a : Channel) {w : Nat} (h : w ≤ 16) :
    (alphaField m a w).toNat = alphaBits m a.toNat w := by
  cases m
  case low => simp [alphaField, alphaBits, BitVec.extractLsb'_toNat]
  case high => simpa [alphaField, alphaBits] using topBits_toNat_of_le h a

theorem unpremultiply_toNat (c a : Channel) {w : Nat} (h : w ≤ 16) :
    (unpremultiply c a w).toNat = c.toNat * 0xFFFF / a.toNat % 0x10000 / 2 ^ (16 - w) := by
  rw [unpremultiply, topBits_toNat_of_le h, BitVec.toNat_ofNat]

theorem colourField_toNat (c a : Channel) {w : Nat} (h : w ≤ 16) :
    (colourField c a w).toNat = colourBits c.toNat a.toNat w := by
  have hfull : a = 0xFFFF ↔ a.toNat = 0xFFFF := BitVec.toNat_inj.symm
  have hzero : a = 0 ↔ a.toNat = 0 := BitVec.toNat_inj.symm
  simp only [colourField, colourBits, ← hfull, ← hzero]
  split
  case isTrue => exact topBits_toNat_of_le h c
  case isFalse =>
    split
    case isTrue => exact BitVec.toNat_zero
    case isFalse => exact unpremultiply_toNat c a h

/-! ### The packed words -/

/-- The formats with independent alpha pack 0 where A = 0 (R134, R137, R139). -/
theorem ite_alphaZero_toNat {a : Channel} {raw : Word} {n : Nat} (h : raw.toNat = n) :
    (if a = 0 then 0 else raw).toNat = if a.toNat = 0 then 0 else n := by
  have hzero : a = 0 ↔ a.toNat = 0 := BitVec.toNat_inj.symm
  rw [apply_ite BitVec.toNat, h]
  exact if_congr hzero BitVec.toNat_zero rfl

theorem encodeGa88_toNat (m : EncAlphaBits) (c : Color) :
    (encodeGa88 m c).toNat = if c.a.toNat = 0 then 0
      else alphaBits m c.a.toNat 8 * 2 ^ 8 + colourBits c.r.toNat c.a.toNat 8 := by
  refine ite_alphaZero_toNat ?_
  rw [BitVec.toNat_setWidth_of_le (by decide), append_toNat]
  simp (disch := decide) only [alphaField_toNat, colourField_toNat]

theorem encodeR8_toNat (c : Color) : (encodeR8 c).toNat = c.r.toNat / 2 ^ 8 := by
  rw [encodeR8, BitVec.toNat_setWidth_of_le (by decide), topBits_toNat_of_le (by decide)]

theorem encodeRgb565_toNat (c : Color) :
    (encodeRgb565 c).toNat =
      c.r.toNat / 2 ^ 11 * 2 ^ 11 + c.g.toNat / 2 ^ 10 * 2 ^ 5 + c.b.toNat / 2 ^ 11 := by
  rw [encodeRgb565, BitVec.toNat_setWidth_of_le (by decide)]
  simp (disch := decide) only [append_toNat, topBits_toNat_of_le]
  ring

theorem encodeRgba4444_toNat (m : EncAlphaBits) (c : Color) :
    (encodeRgba4444 m c).toNat = if c.a.toNat = 0 then 0
      else colourBits c.r.toNat c.a.toNat 4 * 2 ^ 12 + colourBits c.g.toNat c.a.toNat 4 * 2 ^ 8 +
        colourBits c.b.toNat c.a.toNat 4 * 2 ^ 4 + alphaBits m c.a.toNat 4 := by
  refine ite_alphaZero_toNat ?_
  rw [BitVec.toNat_setWidth_of_le (by decide)]
  simp (disch := decide) only [append_toNat, alphaField_toNat, colourField_toNat]
  ring

theorem encodeBgra8888_toNat (m : EncAlphaBits) (c : Color) :
    (encodeBgra8888 m c).toNat = if c.a.toNat = 0 then 0
      else alphaBits m c.a.toNat 8 * 2 ^ 24 + colourBits c.r.toNat c.a.toNat 8 * 2 ^ 16 +
        colourBits c.g.toNat c.a.toNat 8 * 2 ^ 8 + colourBits c.b.toNat c.a.toNat 8 := by
  refine ite_alphaZero_toNat ?_
  simp (disch := decide) only [append_toNat, alphaField_toNat, colourField_toNat]
  ring

/-! ### Commands that write RAW_OUT -/

theorem rawDone_finishRaw (raw : Word) : RawDone s (finishRaw raw s) raw.toNat := ⟨rfl, rfl⟩

/-- ENC.f, once the packed word of the format is known as a number (R130). -/
theorem exec_encOf_rawDone {f : Fmt} {n : Nat} (h : (encodeFmt s.params f (canIn s)).toNat = n) :
    ∃ t, exec (.encOf f) s = .next t ∧ RawDone s t n :=
  ⟨_, exec_encOf s f, h ▸ rawDone_finishRaw _⟩

/-- The width of R75, as the obligations write it. -/
theorem rawWidth_eq_width (f : Fmt) : rawWidth f = f.width := by cases f <;> rfl

theorem convert_self (p : Params) (f : Fmt) (raw : Word) : convert p f f raw = rawField f raw :=
  if_pos rfl

theorem convert_of_ne (p : Params) {f g : Fmt} (h : f ≠ g) (raw : Word) :
    convert p f g raw = encodeFmt p g (decodeFmt p f raw) := by
  rw [convert, if_neg h, decodeFmt_rawField]

/-- Raw 0 decodes to opaque black without an alpha field and to transparent black with one (R145). -/
theorem decodeFmt_zero_eq (p : Params) (f : Fmt) :
    decodeFmt p f 0 = Color.ofNats 0 0 0 (if f = .r8 ∨ f = .rgb565 then 0xFFFF else 0) := by
  rw [decodeFmt_zero p Params.default]
  cases f <;> rfl

end Sys2Proof.Machine

namespace Sys2Proof

/-- The word of CONV f, g by its fields (R22, R81). -/
theorem decode_convWord (f g : Fmt) :
    decode (BitVec.ofNat 32 (0x3 + f.code * 2 ^ 4 + g.code * 2 ^ 8)) = .ok (.conv f g) := by
  cases f <;> cases g <;> rfl

/-- The word of ZERO f by its fields (R22, R81). -/
theorem decode_zeroWord (f : Fmt) :
    decode (BitVec.ofNat 32 (0x4 + f.code * 2 ^ 8)) = .ok (.zero f) := by
  cases f <;> rfl

end Sys2Proof
end

section
/-! The obligations of 41_packed_encode.md on ENC of the formats whose field positions the source gives,
on CONV and on ZERO. -/

open Sys2Proof Sys2Proof.Machine Sys2Proof.Claims

namespace Sys2Proof.Proofs

/-- Settles O39: the word of GA88 as a number, on the colour in CAN_IN. -/
theorem encGa88Result : Obligations.EncGa88Result := by
  refine ⟨rfl, fun s => ?_⟩
  simp only [inA_eq_canIn, inR_eq_canIn]
  exact exec_encOf_rawDone (f := .ga88) (encodeGa88_toNat _ _)

/-- Settles O40: R[15:8] is the quotient of the channel R by 2^8. -/
theorem encR8Result : Obligations.EncR8Result := by
  refine ⟨rfl, fun s => exec_encOf_rawDone (f := .r8) ?_⟩
  have hhigh : field s.canInRg 15 8 = inR s / 2 ^ 8 := by simp only [inR, field]; omega
  rw [hhigh, inR_eq_canIn]
  exact encodeR8_toNat _

/-- Settles O41: the word of RGB565 as a number, on the colour in CAN_IN. -/
theorem encRgb565Result : Obligations.EncRgb565Result := by
  refine ⟨rfl, fun s => ?_⟩
  simp only [inR_eq_canIn, inG_eq_canIn, inB_eq_canIn]
  exact exec_encOf_rawDone (f := .rgb565) (encodeRgb565_toNat _)

/-- Settles O42: the word of RGBA4444 as a number, on the colour in CAN_IN. -/
theorem encRgba4444Result : Obligations.EncRgba4444Result := by
  refine ⟨rfl, fun s => ?_⟩
  simp only [inA_eq_canIn, inR_eq_canIn, inG_eq_canIn, inB_eq_canIn]
  exact exec_encOf_rawDone (f := .rgba4444) (encodeRgba4444_toNat _ _)

/-- Settles O44: the word of BGRA8888 as a number, on the colour in CAN_IN. -/
theorem encBgra8888Result : Obligations.EncBgra8888Result := by
  refine ⟨rfl, fun s => ?_⟩
  simp only [inA_eq_canIn, inR_eq_canIn, inG_eq_canIn, inB_eq_canIn]
  exact exec_encOf_rawDone (f := .bgra8888) (encodeBgra8888_toNat _ _)

/-- Settles O45: `convert` is the identity or encode of decode, and CAN_OUT moved to CAN_IN is the decoded
colour. -/
theorem convIsIdentityOrDecodeThenEncode : Obligations.ConvIsIdentityOrDecodeThenEncode := by
  refine fun f g s => ⟨decode_convWord f g, ?equal, fun hne => ?different⟩
  case equal =>
    rintro rfl
    refine ⟨_, exec_conv s f f, ?_⟩
    rw [convert_self, rawWidth_eq_width, ← rawField_toNat]
    exact rawDone_finishRaw _
  case different =>
    refine ⟨_, _, _, exec_decOf s f, exec_encOf _ g, exec_conv s f g, ?_⟩
    rw [convert_of_ne _ hne]
    simp only [finishCanon_eq, canIn_of_words]
    exact rawDone_finishRaw _

/-- Settles O46: the colour of raw 0, laid out in CAN_OUT. -/
theorem zeroWritesTheZeroValueAndItsColour : Obligations.ZeroWritesTheZeroValueAndItsColour := by
  refine fun f s => ⟨decode_zeroWord f, ?_⟩
  rw [exec_zero, decodeFmt_zero_eq]
  split <;> rfl

end Sys2Proof.Proofs
end

section
/-! SUPPORT. The differential bytes of an ETC1 block (42_etc1.md): the signed delta and the wrapped sum as
integers. -/

namespace Sys2Proof.Machine

/-- The two's-complement value of a 3-bit delta (R11). -/
theorem sext3_eq (d : BitVec 3) : sext3 d = if d.toNat < 4 then (d.toNat : Int) else d.toNat - 8 := by
  have hsign : 2 * d.toNat < 2 ^ 3 ↔ d.toNat < 4 := by omega
  simp only [sext3, BitVec.toInt_eq_toNat_cond, hsign]
  rfl

/-- A residue modulo 32 is not negative, so `sum5` loses nothing when it is kept as a natural number. -/
theorem sum5_eq_emod (b : Byte) : (sum5 b : Int) = (bits b 7 3 + sext3 (b.extractLsb 2 0)) % 32 :=
  Int.toNat_of_nonneg (Int.emod_nonneg _ (by decide))

end Sys2Proof.Machine
end

section
/-! The obligation of 42_etc1.md on the differential sum. -/

open Sys2Proof Sys2Proof.Machine

namespace Sys2Proof.Proofs

/-- Settles O54: the field and the delta are the quotient and the remainder of the byte by 8, and the sum's
residue is kept exactly. -/
theorem differentialSumWrapsMod32 : Obligations.DifferentialSumWrapsMod32 := by
  intro b
  have hfield : bits b 7 3 = b.toNat / 8 := by
    rw [bits_eq]
    exact Nat.mod_eq_of_lt (by omega)
  have hdelta : (b.extractLsb 2 0).toNat = b.toNat % 8 := by
    simp [BitVec.extractLsb_toNat]
  rw [sum5_eq_emod, sext3_eq, hfield, hdelta]
  push_cast
  rfl

end Sys2Proof.Proofs
end

section
/-! SUPPORT. Control (43_control.md): the step of a STATUS write by bit 1 of its value, and the words with
OP 0. -/

open Sys2Proof.Claims

namespace Sys2Proof.Machine

variable {s : State} {es : List HostEvent} {v : Word}

theorem step_statusWrite_of_set (h : s.pending = .write 0x04 4 v :: es) (hv : v[1] = true) :
    step s = .next { s with pending := es, status := ⟨s.status.done, false, none⟩ } := by
  rw [step_statusWrite h, statusWrite_eq, if_pos hv]
  rfl

theorem step_statusWrite_of_clear (h : s.pending = .write 0x04 4 v :: es) (hv : v[1] = false) :
    step s = .next { s with pending := es } := by
  rw [step_statusWrite h, statusWrite_eq, if_neg (by simp [hv])]
  rfl

theorem exec_nop (s : State) : exec .nop s = .next (complete s) := rfl

end Sys2Proof.Machine

namespace Sys2Proof

theorem CmdFields.op_ofWord_eq_zero {v : Word} (h : field v 3 0 = 0) :
    (CmdFields.ofWord v).op = 0 :=
  BitVec.eq_of_toNat_eq ((Machine.field_eq_bits v (by decide)).symm.trans h)

/-- NOP uses no field, so where no unused field is set the word is 0 (R72). -/
theorem CmdFields.toWord_eq_zero {f : CmdFields} (hop : f.op = 0) (hf : f.rsvdNonzero = false) :
    f.toWord = 0 := by
  obtain ⟨op, fmtS, fmtD, x, y, rsvd⟩ := f
  obtain rfl : op = 0 := hop
  obtain ⟨⟨⟨rfl, rfl⟩, rfl⟩, rfl, rfl⟩ :
      ((rsvd = 0 ∧ fmtS = 0) ∧ fmtD = 0) ∧ x = 0 ∧ y = 0 := by
    simpa [rsvdNonzero, usesS, usesD, usesXY] using hf
  rfl

/-- The second check of R80, after the first one passed. -/
theorem CmdFields.decode_of_rsvdNonzero {f : CmdFields} (hop : ¬ 6 ≤ f.op.toNat)
    (hf : f.rsvdNonzero = true) : f.decode = .error .rsvdField := by
  rw [CmdFields.decode, if_neg hop, if_pos hf]

/-- The word 0 is the only NOP: any other word with OP 0 sets a field that NOP does not use. -/
theorem decode_of_op_zero {v : Word} (hop : field v 3 0 = 0) (hv : v ≠ 0) :
    decode v = .error .rsvdField := by
  have hop0 := CmdFields.op_ofWord_eq_zero hop
  refine CmdFields.decode_of_rsvdNonzero (by simp [hop0]) ?_
  by_contra hclear
  exact hv ((CmdFields.toWord_ofWord v).symm.trans
    (CmdFields.toWord_eq_zero hop0 (by simpa using hclear)))

end Sys2Proof
end

section
/-! The obligations of 43_control.md on the STATUS write and on NOP. -/

open Sys2Proof Sys2Proof.Machine

namespace Sys2Proof.Proofs

/-- Settles O23: bit 1 of the value decides which of the two steps of a STATUS write is taken. -/
theorem statusWriteClearsErrorAlone : Obligations.StatusWriteClearsErrorAlone := by
  refine ⟨rfl, fun s es v hp => ⟨fun hv => ?set, fun hv => ?clear⟩⟩
  case set => exact step_statusWrite_of_set hp (by simpa [field_bit] using hv)
  case clear => exact step_statusWrite_of_clear hp (by simpa [field_bit] using hv)

/-- Settles O31: word 0 decodes to NOP, the near misses fail the reserved-field check, and NOP only
completes. -/
theorem nopCompletesWithoutEffect : Obligations.NopCompletesWithoutEffect := by
  refine ⟨rfl, fun v hop hv => decode_of_op_zero hop hv, fun s => ?_⟩
  rw [exec_nop, complete_eq]

end Sys2Proof.Proofs
end

section
/-! SUPPORT. Exceptions (60_exceptions.md): the checks of the decoder one by one, each equal to the claim's
arithmetic on the fields of the word. -/

open Sys2Proof.Claims

namespace Sys2Proof

/-! ### Which operations use which fields (R72) -/

theorem usesS_iff (op : Nat) : usesS op = true ↔ op ∈ [1, 3] := by simp [usesS]

theorem usesD_iff (op : Nat) : usesD op = true ↔ op ∈ [2, 3, 4] := by simp [usesD, or_assoc]

theorem usesXY_iff (op : Nat) : usesXY op = true ↔ op = 5 := by simp [usesXY]

/-! ### The three checks of R80 on the fields -/

namespace CmdFields

variable {f : CmdFields}

/-- The first check of R80. -/
theorem decode_of_opReserved (hop : 6 ≤ f.op.toNat) : f.decode = .error .illegalOp := if_pos hop

/-- The third check of R80, after the first two passed. -/
theorem decode_of_select_none (hop : ¬ 6 ≤ f.op.toNat) (hf : ¬ f.rsvdNonzero = true)
    (hs : f.select = none) : f.decode = .error .illegalFmt := by
  rw [CmdFields.decode, if_neg hop, if_neg hf, hs]

/-- A word that passes the three checks of R80 is the command that its fields select. -/
theorem decode_of_select_some {i : Instr} (hop : ¬ 6 ≤ f.op.toNat) (hf : ¬ f.rsvdNonzero = true)
    (hs : f.select = some i) : f.decode = .ok i := by
  rw [CmdFields.decode, if_neg hop, if_neg hf, hs]

/-- The second check of R80, field by field. -/
theorem rsvdNonzero_iff (f : CmdFields) :
    f.rsvdNonzero = true ↔
      f.rsvd.toNat ≠ 0 ∨
      (f.op.toNat ∉ [1, 3] ∧ f.fmtS.toNat ≠ 0) ∨
      (f.op.toNat ∉ [2, 3, 4] ∧ f.fmtD.toNat ≠ 0) ∨
      (f.op.toNat ≠ 5 ∧ f.x.toNat + 4 * f.y.toNat ≠ 0) := by
  simp [rsvdNonzero, ← Bool.not_eq_true, usesS_iff, usesD_iff, usesXY_iff, BitVec.toNat_eq,
    or_assoc, not_and_or, -not_and]

end CmdFields

/-- The reserved format codes are those from 6 on (R77). -/
theorem Fmt.ofCode?_eq_none_iff (n : Nat) : Fmt.ofCode? n = none ↔ 5 < n := by
  rw [← Option.not_isSome_iff_eq_none, Fmt.ofCode?_isSome, Nat.not_le]

/-- Under a legal OP no command is selected exactly where a used format field holds a reserved code;
CONV alone checks two fields. -/
theorem CmdFields.select_eq_none_iff {f : CmdFields} (hop : ¬ 6 ≤ f.op.toNat) :
    f.select = none ↔
      (usesS f.op.toNat = true ∧ 5 < f.fmtS.toNat) ∨ (usesD f.op.toNat = true ∧ 5 < f.fmtD.toNat) := by
  simp only [← Fmt.ofCode?_eq_none_iff]
  by_cases hconv : f.op = 3
  · cases hs : Fmt.ofCode? f.fmtS.toNat <;> cases hd : Fmt.ofCode? f.fmtD.toNat <;>
      simp [select, usesS, usesD, hconv, hs, hd]
  · obtain h | h | h | h | h | h | h := op_cases f.op
    all_goals simp_all [select, usesS, usesD]

/-! ### The fields of a word as numbers -/

namespace CmdFields

variable (v : Word)

@[simp] theorem op_ofWord_toNat : (ofWord v).op.toNat = field v 3 0 :=
  (Machine.field_eq_bits v (by decide)).symm

@[simp] theorem fmtS_ofWord_toNat : (ofWord v).fmtS.toNat = field v 7 4 :=
  (Machine.field_eq_bits v (by decide)).symm

@[simp] theorem fmtD_ofWord_toNat : (ofWord v).fmtD.toNat = field v 11 8 :=
  (Machine.field_eq_bits v (by decide)).symm

@[simp] theorem rsvd_ofWord_toNat : (ofWord v).rsvd.toNat = field v 31 16 :=
  (Machine.field_eq_bits v (by decide)).symm

/-- X and Y are the halves of bits [15:12] (R22). -/
theorem coords_ofWord_toNat : (ofWord v).x.toNat + 4 * (ofWord v).y.toNat = field v 15 12 := by
  have hx : (ofWord v).x.toNat = field v 13 12 := (Machine.field_eq_bits v (by decide)).symm
  have hy : (ofWord v).y.toNat = field v 15 14 := (Machine.field_eq_bits v (by decide)).symm
  rw [hx, hy, field, field, field]
  omega

/-- The reserved-field check of R80 in arithmetic. -/
theorem rsvdNonzero_ofWord_iff : (ofWord v).rsvdNonzero = true ↔ unusedNonzero v := by
  rw [rsvdNonzero_iff, coords_ofWord_toNat, op_ofWord_toNat, rsvd_ofWord_toNat, fmtS_ofWord_toNat,
    fmtD_ofWord_toNat, unusedNonzero]

/-- The format check of R80 in arithmetic. -/
theorem select_ofWord_eq_none_iff {v : Word} (hop : ¬ 6 ≤ field v 3 0) :
    (ofWord v).select = none ↔ badFormat v := by
  rw [select_eq_none_iff (by simpa using hop)]
  simp [badFormat, usesS_iff, usesD_iff]

end CmdFields

end Sys2Proof
end

section
/-! The obligations of 60_exceptions.md on the code that a word reports and on what a failed command
writes. -/

open Sys2Proof Sys2Proof.Machine Sys2Proof.Claims

namespace Sys2Proof.Proofs

/-- Settles O9: the three checks in their order, each on the fields of the word; past them the fields
select a command. -/
theorem commandWordReportsFirstErrorThatApplies :
    Obligations.CommandWordReportsFirstErrorThatApplies := by
  intro v
  rw [← CmdFields.op_ofWord_toNat, ← CmdFields.rsvdNonzero_ofWord_iff]
  refine ⟨CmdFields.decode_of_opReserved, CmdFields.decode_of_rsvdNonzero,
    fun hop hf hfmt => ?fmt, fun hop hf hfmt => ?legal⟩
  all_goals
    rw [← CmdFields.select_ofWord_eq_none_iff (by simpa using hop)] at hfmt
  case fmt => exact CmdFields.decode_of_select_none hop hf hfmt
  case legal =>
    obtain ⟨i, hi⟩ := Option.ne_none_iff_exists'.1 hfmt
    exact ⟨i, CmdFields.decode_of_select_some hop hf hi⟩

/-- Settles O13: CMD holds the word from the write, and raising the error sets STATUS. -/
theorem failedCommandWritesStatusAlone : Obligations.FailedCommandWritesStatusAlone := by
  intro s es v e hp hd
  rw [step_failedCommand hp hd, raiseCmdError_eq]
  rfl

end Sys2Proof.Proofs
end

section
/-! SUPPORT. What a reset leaves as it is (70_reset_and_hazards.md), and the state after reset as the
outcome of a reset event. -/

namespace Sys2Proof.Machine

variable (s : State)

@[simp] theorem takeReset_params : (takeReset s).params = s.params := rfl

@[simp] theorem takeReset_pending : (takeReset s).pending = s.pending := rfl

@[simp] theorem takeReset_hostReads : (takeReset s).hostReads = s.hostReads := rfl

/-- The initial state is one that a reset event answers, so what holds after each reset holds of it. -/
theorem takeReset_resetWith (p : Params) : takeReset (State.resetWith p) = State.resetWith p := rfl

/-- Every register reads 0 in the initial state, whatever the parameters (R240). -/
theorem readReg_resetWith (p : Params) (r : Reg) : readReg r (State.resetWith p) = 0 := by
  rw [← takeReset_resetWith]
  exact takeReset_readReg _ r

end Sys2Proof.Machine
end

section
/-! The obligation of 70_reset_and_hazards.md on reset. -/

open Sys2Proof Sys2Proof.Machine

namespace Sys2Proof.Proofs

/-- Settles O1: the registers of the initial state and of what a reset event answers, and the frame of
`takeReset`. -/
theorem resetClearsEveryRegister : Obligations.ResetClearsEveryRegister := by
  refine ⟨readReg_resetWith _, rfl, fun s es hp => ?event⟩
  case event =>
    exact ⟨_, step_reset hp, takeReset_readReg _, takeReset_status, by simp, by simp, by simp⟩

end Sys2Proof.Proofs
end

section
/-! SUPPORT. The register invariant (10_state.md sections 2 and 3): every colour that a command writes is
premultiplied, RGB8_OUT takes opaque pixels alone, and each event that writes STATUS makes it tell the
outcome of the word in CMD. -/

open Sys2Proof.Claims

namespace Sys2Proof.Machine

variable {s t : State}

/-! ### Premultiplied colours -/

theorem Color.premultiplied_iff (c : Color) :
    c.premultiplied = true ↔
      c.r.toNat ≤ c.a.toNat ∧ c.g.toNat ≤ c.a.toNat ∧ c.b.toNat ≤ c.a.toNat := by
  simp [Color.premultiplied, BitVec.le_def, and_assoc]

theorem premultiplied_ofNats {r g b a : Nat} (ha : a ≤ 0xFFFF) (hr : r ≤ a) (hg : g ≤ a)
    (hb : b ≤ a) : (Color.ofNats r g b a).premultiplied = true := by
  rw [Color.premultiplied_iff, Color.ofNats, ofNat16_toNat ha, ofNat16_toNat (hr.trans ha),
    ofNat16_toNat (hg.trans ha), ofNat16_toNat (hb.trans ha)]
  exact ⟨hr, hg, hb⟩

/-- An opaque colour is premultiplied, whatever its channels. -/
theorem premultiplied_of_opaque {c : Color} (h : c.a = 0xFFFF) : c.premultiplied = true := by
  have hr := c.r.isLt
  have hg := c.g.isLt
  have hb := c.b.isLt
  rw [Color.premultiplied_iff, h, show (0xFFFF : Channel).toNat = 0xFFFF from rfl]
  omega

theorem Rgb.premultiplied_canonical (p : Rgb) : p.canonical.premultiplied = true :=
  premultiplied_of_opaque rfl

/-- Every decoded colour is premultiplied (R108). -/
theorem premultiplied_decodeFmt (p : Params) (f : Fmt) (raw : Word) :
    (decodeFmt p f raw).premultiplied = true := by
  cases f with
  | ga88 =>
    have hgray := premul8_le (bits raw 15 8) (bits_lt raw 7 0)
    exact premultiplied_ofNats (rep8_le (bits_lt raw 15 8)) hgray hgray hgray
  | r8 => exact premultiplied_of_opaque rfl
  | rgb565 => exact premultiplied_of_opaque rfl
  | rgba4444 =>
    exact premultiplied_ofNats (rep4_le (bits_lt raw 3 0)) (premul4_le _ (bits_lt raw 15 12))
      (premul4_le _ (bits_lt raw 11 8)) (premul4_le _ (bits_lt raw 7 4))
  | rgba5551 =>
    show (decodeRgba5551 p.scaleMode raw).premultiplied = true
    unfold decodeRgba5551
    split
    · rfl
    · exact premultiplied_of_opaque rfl
  | bgra8888 =>
    exact premultiplied_ofNats (rep8_le (bits_lt raw 31 24)) (premul8_le _ (bits_lt raw 23 16))
      (premul8_le _ (bits_lt raw 15 8)) (premul8_le _ (bits_lt raw 7 0))

/-- The channels of CAN_OUT, as the obligations write them. -/
theorem canOut_toNat (s : State) :
    (canOut s).r.toNat = field s.canOutRg 15 0 ∧ (canOut s).g.toNat = field s.canOutRg 31 16 ∧
      (canOut s).b.toNat = field s.canOutBa 15 0 ∧ (canOut s).a.toNat = field s.canOutBa 31 16 := by
  simp (disch := decide) only [field_eq_bits]
  exact ⟨rfl, rfl, rfl, rfl⟩

/-- A command that does not write CAN_OUT keeps it, and one that does leaves a premultiplied colour. -/
theorem exec_canOut_cases {i : Instr} (h : exec i s = .next t) :
    (.canOutRg ∉ resultRegs i ∧ canOut t = canOut s) ∨ (canOut t).premultiplied = true := by
  obtain rfl | ⟨f, rfl⟩ | ⟨f, rfl⟩ | ⟨f, g, rfl⟩ | ⟨f, rfl⟩ | ⟨lx, ly, rfl⟩ := instr_cases i
  · cases h
    exact .inl ⟨by simp [resultRegs], rfl⟩
  · cases (exec_decOf s f).symm.trans h
    rw [canOut_finishCanon]
    exact .inr (premultiplied_decodeFmt _ f _)
  · cases (exec_encOf s f).symm.trans h
    exact .inl ⟨by simp, rfl⟩
  · cases (exec_conv s f g).symm.trans h
    exact .inl ⟨by simp [resultRegs], rfl⟩
  · cases (exec_zero s f).symm.trans h
    rw [canOut_finishCanon]
    exact .inr (premultiplied_decodeFmt _ f _)
  · cases (exec_etc1 s lx ly).symm.trans h
    rw [canOut_finishCanon]
    exact .inr (Rgb.premultiplied_canonical _)

/-- The high byte of a packed pixel is the opaque alpha (R32). -/
theorem Rgb.packed_high (p : Rgb) : p.packed.extractLsb 31 24 = 0xFF := by
  have hg := (BitVec.ofNat 8 p.g).isLt
  have hr := (BitVec.ofNat 8 p.r).isLt
  have hb := (BitVec.ofNat 8 p.b).isLt
  apply BitVec.eq_of_toNat_eq
  show p.packed.toNat >>> 24 % 2 ^ 8 = 0xFF
  simp only [Rgb.packed, append_toNat, Nat.shiftRight_eq_div_pow,
    show (0xFF : Byte).toNat = 0xFF from rfl]
  omega

theorem exec_rgb8Out_cases {i : Instr} (h : exec i s = .next t) :
    t.rgb8Out = s.rgb8Out ∨ t.rgb8Out.extractLsb 31 24 = 0xFF := by
  obtain hx | ⟨_, hx⟩ | ⟨_, hx⟩ | ⟨_, hx⟩ | ⟨p, hx⟩ := exec_cases s i <;> cases hx.symm.trans h
  case inr.inr.inr.inr => exact .inr p.packed_high
  all_goals exact .inl rfl

/-! ### What STATUS says of the word in CMD -/

theorem legalWord_of_ok {v : Word} {i : Instr} (h : decode v = .ok i) : legalWord v = true := by
  rw [legalWord, h]

theorem legalWord_of_error {v : Word} {e : CmdError} (h : decode v = .error e) :
    legalWord v = false := by
  rw [legalWord, h]

/-- STATUS after a failure names the error that the word in CMD reports. -/
theorem statusTellsCommand_of_fail {e : CmdError} (hst : s.status = ⟨false, true, some e⟩)
    (hd : decode s.cmd = .error e) : statusTellsCommand s = true := by
  simp [statusTellsCommand, hst, hd]

theorem statusTellsCommand_of_done (hst : s.status.done = true) (hl : legalWord s.cmd = true) :
    statusTellsCommand s = true := by
  simp [statusTellsCommand, hst, hl]

/-- Acknowledging an error (R201) leaves STATUS about the word in CMD: a failure that it named is that of
a word that is no command. -/
theorem statusTellsCommand_of_cleared (h : statusTellsCommand s = true) (hcmd : t.cmd = s.cmd)
    (hst : t.status = ⟨s.status.done, false, none⟩) : statusTellsCommand t = true := by
  cases hdone : s.status.done with
  | true =>
    have hl : legalWord t.cmd = true := by simpa [statusTellsCommand, hdone, hcmd] using h
    exact statusTellsCommand_of_done (by rw [hst, hdone]) hl
  | false =>
    have hword : (t.cmd == 0 || !legalWord t.cmd) = true := by
      cases herr : s.status.err with
      | false => simpa [statusTellsCommand, hdone, herr, hcmd] using h
      | true =>
        cases hd : decode s.cmd with
        | error e => simp [hcmd, legalWord_of_error hd]
        | ok i => simp [statusTellsCommand, hdone, herr, hd] at h
    simpa [statusTellsCommand, hst, hdone] using hword

/-! ### The invariant under each kind of event -/

/-- The invariant speaks of CMD, STATUS and the output registers CAN_OUT and RGB8_OUT alone. -/
theorem Inv.congr (h : Inv s) (hcmd : t.cmd = s.cmd) (hst : t.status = s.status)
    (hcan : canOut t = canOut s) (hrgb : t.rgb8Out = s.rgb8Out) : Inv t where
  errIffCode := by rw [hst]; exact h.errIffCode
  statusOfCommand := by
    rw [statusTellsCommand, hcmd, hst]
    exact h.statusOfCommand
  canOutPremultiplied := by rw [hcan]; exact h.canOutPremultiplied
  rgb8Opaque := by rw [hrgb]; exact h.rgb8Opaque

theorem inv_resetWith (p : Params) : Inv (State.resetWith p) where
  errIffCode := rfl
  statusOfCommand := rfl
  canOutPremultiplied := show (Color.ofWords 0 0).premultiplied = true by decide
  rgb8Opaque := .inl rfl

theorem inv_takeReset (s : State) : Inv (takeReset s) :=
  (inv_resetWith s.params).congr rfl rfl rfl rfl

theorem inv_statusWrite (h : Inv s) (v : Word) : Inv (statusWrite v s) := by
  rw [statusWrite_eq]
  split
  case isTrue => exact ⟨rfl, statusTellsCommand_of_cleared h.statusOfCommand rfl rfl,
      h.canOutPremultiplied, h.rgb8Opaque⟩
  case isFalse => exact h

/-- A host write that launches nothing keeps the invariant: it changes an operand register or STATUS. -/
theorem inv_hostWrite (h : Inv s) {u : Slot} (v : Word) (hu : u ≠ .reg .cmd) :
    Inv (hostWrite u v s) := by
  obtain ⟨r, rfl, hw⟩ | ⟨rfl, hw⟩ := hostWrite_cases s u v <;> rw [hw]
  case inr => exact h
  cases r
  case cmd => exact absurd rfl hu
  case status => exact inv_statusWrite h v
  all_goals exact h.congr rfl rfl rfl rfl

/-- A command keeps the invariant once CMD holds its word. -/
theorem inv_exec (h : Inv s) {v : Word} {i : Instr} (hd : decode v = .ok i)
    (hx : exec i (s.setCmd v) = .next t) : Inv t where
  errIffCode := by rw [exec_status hx]; exact h.errIffCode
  statusOfCommand := by
    refine statusTellsCommand_of_done (by rw [exec_status hx]; rfl) ?_
    rw [exec_frame hx]
    exact legalWord_of_ok hd
  canOutPremultiplied := by
    obtain ⟨-, hcan⟩ | hpre := exec_canOut_cases hx
    · rw [hcan]; exact h.canOutPremultiplied
    · exact hpre
  rgb8Opaque := by
    obtain hrgb | hopaque := exec_rgb8Out_cases hx
    · rw [hrgb]; exact h.rgb8Opaque
    · exact .inr hopaque

theorem inv_raiseCmdError (h : Inv s) {v : Word} {e : CmdError} (hd : decode v = .error e) :
    Inv (raiseCmdError e (s.setCmd v)) where
  errIffCode := rfl
  statusOfCommand := statusTellsCommand_of_fail rfl hd
  canOutPremultiplied := h.canOutPremultiplied
  rgb8Opaque := h.rgb8Opaque

theorem inv_setPending (h : Inv s) (es : List HostEvent) : Inv (s.setPending es) :=
  h.congr rfl rfl rfl rfl

end Sys2Proof.Machine
end

section
/-! The obligations on the register invariant and on the colours that commands write. -/

open Sys2Proof Sys2Proof.Machine Sys2Proof.Claims

namespace Sys2Proof.Proofs

/-- Settles O3: each kind of step keeps the invariant. -/
theorem stepKeepsInvariant : Obligations.StepKeepsInvariant := by
  intro s t hinv h
  obtain ⟨-, rfl⟩ | ⟨e, es, -, hcase⟩ := step_cases h
  · exact hinv
  have hq := inv_setPending hinv es
  obtain ⟨_, _, u, -, -, rfl⟩ | ⟨_, _, v, u, -, -, hcmd, rfl⟩ | ⟨v, i, -, hd, hx⟩ |
    ⟨v, c, -, hd, rfl⟩ | ⟨-, rfl⟩ := hcase
  · exact hq.congr rfl rfl rfl rfl
  · exact inv_hostWrite hq v hcmd
  · exact inv_exec hq hd hx
  · exact inv_raiseCmdError hq hd
  case inr.inr.inr.inr => exact inv_takeReset _

/-- Settles O2: the events to come are no part of the invariant. -/
theorem invariantHoldsAtReset : Obligations.InvariantHoldsAtReset :=
  fun p es => inv_setPending (inv_resetWith p) es

/-- Settles O38: an instruction that names CAN_OUT as a result leaves a premultiplied colour there. -/
theorem coloursWrittenArePremultiplied : Obligations.ColoursWrittenArePremultiplied := by
  intro i s t h hi
  obtain ⟨hr, hg, hb, ha⟩ := canOut_toNat t
  obtain ⟨hni, -⟩ | hpre := exec_canOut_cases h
  · exact absurd hi hni
  · rw [← hr, ← hg, ← hb, ← ha]
    exact (Color.premultiplied_iff _).1 hpre

end Sys2Proof.Proofs
end

section
/-! SUPPORT. Encoding (30_encoding.md): decode and encode undo each other, the procedure of R80 against the
field table of R72, and the tokens of R82. -/

namespace Sys2Proof

/-! ### Decode of encode -/

theorem decode_encode_decOf (f : Fmt) : decode (encode (.decOf f)) = .ok (.decOf f) := by
  cases f <;> rfl

theorem decode_encode_encOf (f : Fmt) : decode (encode (.encOf f)) = .ok (.encOf f) := by
  cases f <;> rfl

theorem decode_encode (i : Instr) : decode (encode i) = .ok i := by
  obtain rfl | ⟨f, rfl⟩ | ⟨f, rfl⟩ | ⟨f, g, rfl⟩ | ⟨f, rfl⟩ | ⟨lx, ly, rfl⟩ := Machine.instr_cases i
  · rfl
  · exact decode_encode_decOf f
  · exact decode_encode_encOf f
  · cases f <;> cases g <;> rfl
  · cases f <;> rfl
  · revert lx ly
    decide

theorem encode_injective : Function.Injective encode := by
  intro i j h
  have hj := decode_encode j
  rw [← h, decode_encode i] at hj
  exact Except.ok.inj hj

/-! ### Encode of decode -/

/-- A 4-bit field that holds a format's code is that code. -/
theorem Fmt.eq_ofNat_code {c : BitVec 4} {f : Fmt} (h : Fmt.ofCode? c.toNat = some f) :
    c = BitVec.ofNat 4 f.code := by
  rw [← Fmt.eq_code_of_ofCode? h, BitVec.ofNat_toNat, BitVec.setWidth_eq]

theorem encode_decOf (f : Fmt) :
    encode (.decOf f) = CmdFields.toWord ⟨1, BitVec.ofNat 4 f.code, 0, 0, 0, 0⟩ := by
  cases f <;> rfl

theorem encode_encOf (f : Fmt) :
    encode (.encOf f) = CmdFields.toWord ⟨2, 0, BitVec.ofNat 4 f.code, 0, 0, 0⟩ := by
  cases f <;> rfl

theorem encode_conv (f g : Fmt) :
    encode (.conv f g) =
      CmdFields.toWord ⟨3, BitVec.ofNat 4 f.code, BitVec.ofNat 4 g.code, 0, 0, 0⟩ := by
  cases f <;> cases g <;> rfl

theorem encode_zero (f : Fmt) :
    encode (.zero f) = CmdFields.toWord ⟨4, 0, BitVec.ofNat 4 f.code, 0, 0, 0⟩ := by
  cases f <;> rfl

theorem encode_etc1 (lx ly : BitVec 2) :
    encode (.etc1 lx ly) = CmdFields.toWord ⟨5, 0, 0, lx, ly, 0⟩ := by
  revert lx ly
  decide

/-- The operations of R74. -/
theorem op_cases_of_legal {op : BitVec 4} (h : ¬ 6 ≤ op.toNat) :
    op = 0 ∨ op = 1 ∨ op = 2 ∨ op = 3 ∨ op = 4 ∨ op = 5 := by
  simpa [h] using op_cases op

/-- CONV is selected where both its fields hold a format. -/
theorem CmdFields.select_conv {fmtS fmtD : BitVec 4} {x y : BitVec 2} {rsvd : BitVec 16} {i : Instr}
    (h : CmdFields.select ⟨3, fmtS, fmtD, x, y, rsvd⟩ = some i) :
    ∃ f g, Fmt.ofCode? fmtS.toNat = some f ∧ Fmt.ofCode? fmtD.toNat = some g ∧ .conv f g = i := by
  cases hs : Fmt.ofCode? fmtS.toNat <;> cases hd : Fmt.ofCode? fmtD.toNat <;>
    simp_all [CmdFields.select]

/-- The selected command's word has the given fields where every unused field is 0: operation by
operation, the used fields are the operands and the others are 0. -/
theorem CmdFields.encode_of_select {f : CmdFields} {i : Instr} (hlegal : ¬ 6 ≤ f.op.toNat)
    (hf : f.rsvdNonzero = false) (hs : f.select = some i) : encode i = f.toWord := by
  obtain ⟨op, fmtS, fmtD, x, y, rsvd⟩ := f
  obtain rfl | rfl | rfl | rfl | rfl | rfl := op_cases_of_legal hlegal
  · obtain rfl : .nop = i := by simpa [select] using hs
    exact (CmdFields.toWord_eq_zero rfl hf).symm
  · obtain ⟨⟨rfl, rfl⟩, rfl, rfl⟩ : (rsvd = 0 ∧ fmtD = 0) ∧ x = 0 ∧ y = 0 := by
      simpa [rsvdNonzero, usesS, usesD, usesXY] using hf
    obtain ⟨g, hg, rfl⟩ := Option.map_eq_some_iff.1 hs
    rw [encode_decOf, ← Fmt.eq_ofNat_code hg]
  · obtain ⟨⟨rfl, rfl⟩, rfl, rfl⟩ : (rsvd = 0 ∧ fmtS = 0) ∧ x = 0 ∧ y = 0 := by
      simpa [rsvdNonzero, usesS, usesD, usesXY] using hf
    obtain ⟨g, hg, rfl⟩ := Option.map_eq_some_iff.1 hs
    rw [encode_encOf, ← Fmt.eq_ofNat_code hg]
  · obtain ⟨rfl, rfl, rfl⟩ : rsvd = 0 ∧ x = 0 ∧ y = 0 := by
      simpa [rsvdNonzero, usesS, usesD, usesXY] using hf
    obtain ⟨g, d, hg, hd, rfl⟩ := CmdFields.select_conv hs
    rw [encode_conv, ← Fmt.eq_ofNat_code hg, ← Fmt.eq_ofNat_code hd]
  · obtain ⟨⟨rfl, rfl⟩, rfl, rfl⟩ : (rsvd = 0 ∧ fmtS = 0) ∧ x = 0 ∧ y = 0 := by
      simpa [rsvdNonzero, usesS, usesD, usesXY] using hf
    obtain ⟨g, hg, rfl⟩ := Option.map_eq_some_iff.1 hs
    rw [encode_zero, ← Fmt.eq_ofNat_code hg]
  · obtain ⟨⟨rfl, rfl⟩, rfl⟩ : (rsvd = 0 ∧ fmtS = 0) ∧ fmtD = 0 := by
      simpa [rsvdNonzero, usesS, usesD, usesXY] using hf
    obtain rfl : .etc1 x y = i := by simpa [select] using hs
    exact encode_etc1 x y

/-- No bit of a legal word is ignored. -/
theorem encode_of_decode_eq_ok {v : Word} {i : Instr} (h : decode v = .ok i) : encode i = v := by
  obtain ⟨hlegal, hf, hs⟩ := CmdFields.decode_eq_ok h
  rw [CmdFields.encode_of_select hlegal hf hs, CmdFields.toWord_ofWord]

/-! ### The procedure and the field table -/

theorem decode_eq_ok_iff (v : Word) :
    (∃ i, decode v = .ok i) ↔
      ¬ 6 ≤ (CmdFields.ofWord v).op.toNat ∧ ¬ (CmdFields.ofWord v).rsvdNonzero = true ∧
        (CmdFields.ofWord v).select ≠ none := by
  constructor
  · rintro ⟨i, h⟩
    obtain ⟨hop, hf, hs⟩ := CmdFields.decode_eq_ok h
    exact ⟨hop, by simp [hf], by simp [hs]⟩
  · rintro ⟨hop, hf, hs⟩
    obtain ⟨i, hi⟩ := Option.ne_none_iff_exists'.1 hs
    exact ⟨i, CmdFields.decode_of_select_some hop hf hi⟩

namespace CmdFields

variable {f : CmdFields}

theorem opLegal_iff (f : CmdFields) : f.opLegal = true ↔ ¬ 6 ≤ f.op.toNat := by
  simp only [opLegal, decide_eq_true_eq]
  omega

/-- Under a legal OP the table's zero fields are those that the second check of R80 looks at. -/
theorem unusedClear_iff (hop : ¬ 6 ≤ f.op.toNat) :
    f.unusedClear = true ↔ ¬ f.rsvdNonzero = true := by
  obtain ⟨op, fmtS, fmtD, x, y, rsvd⟩ := f
  obtain rfl | rfl | rfl | rfl | rfl | rfl := op_cases_of_legal hop
  all_goals simp [unusedClear, rsvdNonzero, usesS, usesD, usesXY, and_assoc]

/-- Under a legal OP the table's format fields are those from which the third check of R80 selects. -/
theorem formatsLegal_iff (hop : ¬ 6 ≤ f.op.toNat) :
    f.formatsLegal = true ↔ f.select ≠ none := by
  rw [ne_eq, select_eq_none_iff hop]
  obtain ⟨op, fmtS, fmtD, x, y, rsvd⟩ := f
  obtain rfl | rfl | rfl | rfl | rfl | rfl := op_cases_of_legal hop
  all_goals simp [formatsLegal, usesS, usesD]

theorem wellFormed_iff (f : CmdFields) :
    f.wellFormed = true ↔ ¬ 6 ≤ f.op.toNat ∧ ¬ f.rsvdNonzero = true ∧ f.select ≠ none := by
  simp only [wellFormed, Bool.and_eq_true, opLegal_iff, and_assoc]
  exact and_congr_right fun hop => and_congr (unusedClear_iff hop) (formatsLegal_iff hop)

end CmdFields

/-! ### The legal words and the tokens -/

theorem mem_encode_all (i : Instr) : encode i ∈ Instr.all.map encode :=
  List.mem_map_of_mem (Instr.mem_all i)

theorem Instr.nodup_all : Instr.all.Nodup := by decide

/-- The assembler's search finds every instruction by its tokens. -/
theorem find?_tokens (i : Instr) : Instr.all.find? (fun j => j.tokens == i.tokens) = some i := by
  have h : ∀ i ∈ Instr.all, Instr.all.find? (fun j => j.tokens == i.tokens) = some i := by decide
  exact h i (Instr.mem_all i)

theorem Instr.tokens_injective : Function.Injective Instr.tokens := by
  intro i j h
  have hj := find?_tokens j
  rw [← h, find?_tokens i] at hj
  exact Option.some.inj hj

/-- A command word fits the opcode table's 32 bits. -/
@[simp] theorem tableWord_toNat (v : Word) : tableWord 32 v.toNat = v := by
  rw [tableWord, Nat.mod_eq_of_lt v.isLt, BitVec.ofNat_toNat, BitVec.setWidth_eq]

end Sys2Proof
end

section
/-! The obligations of 30_encoding.md on the decoder, the encoder and the text of commands. -/

open Sys2Proof Sys2Proof.Machine

namespace Sys2Proof.Proofs

/-- Settles O4: kind by kind, with every operand. -/
theorem decodeOfEncodeIsTheInstruction : Obligations.DecodeOfEncodeIsTheInstruction :=
  decode_encode

/-- Settles O5: the fields of a word are its bits, and the selected command determines every field. -/
theorem encodeOfDecodeIsTheWord : Obligations.EncodeOfDecodeIsTheWord :=
  fun _ _ => encode_of_decode_eq_ok

/-- Settles O6: each check of the procedure is one of the table's. -/
theorem wordIsACommandIffItsFieldsAreLegal : Obligations.WordIsACommandIffItsFieldsAreLegal :=
  fun v => (decode_eq_ok_iff v).trans (CmdFields.wellFormed_iff _).symm

/-- Settles O7: `Instr.all` lists each instruction once, and decode and encode undo each other. -/
theorem exactlySeventyOneLegalWords : Obligations.ExactlySeventyOneLegalWords := by
  refine ⟨Instr.nodup_all.map encode_injective, rfl, fun v => ⟨?listed, ?decodes⟩⟩
  case listed =>
    rintro ⟨i, hi⟩
    exact encode_of_decode_eq_ok hi ▸ mem_encode_all i
  case decodes =>
    intro hv
    obtain ⟨i, -, rfl⟩ := List.mem_map.1 hv
    exact ⟨i, decode_encode i⟩

/-- Settles O8: the seven words, each by computation. -/
theorem tableWordsDecode : Obligations.TableWordsDecode := ⟨rfl, rfl, rfl, rfl, rfl, rfl, rfl⟩

/-- Settles O10: the assembler's search answers the one instruction of a text. -/
theorem assemblerTextNamesOneInstruction : Obligations.AssemblerTextNamesOneInstruction :=
  fun _ _ h => Instr.tokens_injective h

end Sys2Proof.Proofs
end

section
/-! SUPPORT. Steps (00_scope.md, 20_memory.md, 70_reset_and_hazards.md): what every step keeps, that a
supported event answers, and on what a command's results depend. -/

open Sys2Proof.Claims

namespace Sys2Proof.Machine

variable {s t : State} {es : List HostEvent}

/-! ### What every step keeps -/

theorem hostWrite_frame (u : Slot) (v : Word) (s : State) :
    (hostWrite u v s).pending = s.pending ∧ (hostWrite u v s).params = s.params := by
  obtain ⟨r, rfl, hw⟩ | ⟨rfl, hw⟩ := hostWrite_cases s u v <;> rw [hw]
  case inl => cases r <;> exact ⟨rfl, rfl⟩
  case inr => exact ⟨rfl, rfl⟩

/-- A step takes the oldest event off the queue and writes no parameter (R65, R241). -/
theorem step_frame (h : step s = .next t) : t.pending = s.pending.tail ∧ t.params = s.params := by
  obtain ⟨hp, rfl⟩ | ⟨e, es, hp, hcase⟩ := step_cases h
  · exact ⟨by rw [hp]; rfl, rfl⟩
  rw [hp, List.tail_cons]
  obtain ⟨_, _, u, -, -, rfl⟩ | ⟨_, _, v, u, -, -, -, rfl⟩ | ⟨v, i, -, -, hx⟩ |
    ⟨v, c, -, -, rfl⟩ | ⟨-, rfl⟩ := hcase
  · exact ⟨rfl, rfl⟩
  · exact hostWrite_frame u v _
  · rw [exec_frame hx]
    exact ⟨rfl, rfl⟩
  · exact ⟨rfl, rfl⟩
  · exact ⟨rfl, rfl⟩

/-! ### Supported runs -/

theorem exists_slot_of_supported {off size : Nat}
    (h : (HostEvent.read off size).supported = true) : ∃ u, slotOf? off size = some u := by
  refine Option.isSome_iff_exists.1 ((slotOf?_isSome off size).2 ?_)
  simpa [HostEvent.supported, and_assoc] using h

/-- A supported event answers in every state (R52, R214, R215). -/
theorem step_answers_of_supported {e : HostEvent} (hp : s.pending = e :: es)
    (h : e.supported = true) : ∃ t, step s = .next t := by
  cases e with
  | read off size =>
    obtain ⟨u, hu⟩ := exists_slot_of_supported h
    exact ⟨_, step_read hp hu⟩
  | write off size v =>
    obtain ⟨u, hu⟩ := exists_slot_of_supported (off := off) (size := size) h
    exact step_write_answers hp hu
  | reset => exact ⟨_, step_reset hp⟩
  | straddlingAccess | accessDuringReset | secondHostAccess => cases h

theorem step_idle (h : s.pending = []) : step s = .next s := by
  rw [step, h]

/-- A safe state goes on and stays safe: each event it holds is supported. -/
theorem step_of_safe (h : s.safe = true) : ∃ t, step s = .next t ∧ t.safe = true := by
  have answers : ∃ t, step s = .next t := by
    cases hp : s.pending with
    | nil => exact ⟨s, step_idle hp⟩
    | cons e es =>
      rw [State.safe, hp, List.all_cons, Bool.and_eq_true] at h
      exact step_answers_of_supported hp h.1
  obtain ⟨t, ht⟩ := answers
  refine ⟨t, ht, ?_⟩
  rw [State.safe, List.all_eq_true] at h ⊢
  rw [(step_frame ht).1]
  exact fun e he => h e (List.mem_of_mem_tail he)

theorem run_succ_of_step (h : step s = .next t) (k : Nat) :
    Sys2Proof.core.run (k + 1) s = Sys2Proof.core.run k t := by
  have : Sys2Proof.core.step s = .next t := h
  simp only [Host.Core.run, this]

theorem run_of_safe (k : Nat) (s : State) (h : s.safe = true) :
    ∃ t, Sys2Proof.core.run k s = .next t ∧ t.safe = true := by
  induction k generalizing s with
  | zero => exact ⟨s, rfl, h⟩
  | succ k ih =>
    obtain ⟨u, hu, hsafe⟩ := step_of_safe h
    rw [run_succ_of_step hu]
    exact ih u hsafe

/-! ### On what the results of a command depend -/

@[simp] theorem operandRegs_decOf (f : Fmt) : operandRegs (.decOf f) = [.rawIn] := by
  cases f <;> rfl

theorem canOutRegs_finishCanon (c : Color) {r : Reg} (h : r ∈ [.canOutRg, .canOutBa]) (s s' : State) :
    readReg r (finishCanon c s) = readReg r (finishCanon c s') := by
  simp only [List.mem_cons, List.not_mem_nil, or_false] at h
  obtain rfl | rfl := h <;> rfl

/-- The colour word of ENC depends on the operand registers that its rule names: R8 reads RG alone. -/
theorem encodeFmt_canIn_congr (p : Params) (f : Fmt) {s s' : State}
    (h : ∀ r ∈ operandRegs (.encOf f), readReg r s = readReg r s') :
    encodeFmt p f (canIn s) = encodeFmt p f (canIn s') := by
  have hrg : s.canInRg = s'.canInRg := h .canInRg (by cases f <;> decide)
  cases f
  case r8 => simp only [encodeFmt, encodeR8, canIn, Color.ofWords, hrg]
  all_goals
    have hba : s.canInBa = s'.canInBa := h .canInBa (by decide)
    simp only [canIn, hrg, hba]

theorem usesScaleMode_decOf {f : Fmt} (h : f ∈ [Fmt.rgb565, .rgba5551]) :
    usesScaleMode (.decOf f) := by
  simp only [List.mem_cons, List.not_mem_nil, or_false] at h
  obtain rfl | rfl := h <;> simp [usesScaleMode, Instr.decOf]

theorem usesEncAlphaBits_encOf {f : Fmt} (h : f ∈ [Fmt.ga88, .rgba4444, .rgba5551, .bgra8888]) :
    usesEncAlphaBits (.encOf f) := by
  simp only [List.mem_cons, List.not_mem_nil, or_false] at h
  obtain rfl | rfl | rfl | rfl := h <;> simp [usesEncAlphaBits, Instr.encOf]

/-- CONV depends on RAW_IN, and between different formats on the parameters of its two halves. -/
theorem convert_congr {p q : Params} {f g : Fmt} (raw : Word) (h : agreeOnParamsOf (.conv f g) p q) :
    convert p f g raw = convert q f g raw := by
  obtain ⟨hscale, halpha, -⟩ := h
  by_cases hfg : f = g
  · subst hfg
    rw [convert_self, convert_self]
  · rw [convert_of_ne _ hfg, convert_of_ne _ hfg,
      decodeFmt_congr raw fun hf => hscale (.inr (.inr ⟨f, g, rfl, hfg, hf⟩)),
      encodeFmt_congr _ fun hg => halpha (.inr ⟨f, g, rfl, hfg, hg⟩)]

theorem exec_results_congr {i : Instr} {s s' t t' : State}
    (hops : ∀ r ∈ operandRegs i, readReg r s = readReg r s')
    (hparams : agreeOnParamsOf i s.params s'.params) (h : exec i s = .next t)
    (h' : exec i s' = .next t') {r : Reg} (hr : r ∈ resultRegs i) : readReg r t = readReg r t' := by
  have hagree := hparams
  obtain ⟨hscale, halpha, hmap⟩ := hparams
  obtain rfl | ⟨f, rfl⟩ | ⟨f, rfl⟩ | ⟨f, g, rfl⟩ | ⟨f, rfl⟩ | ⟨lx, ly, rfl⟩ := instr_cases i
  · simp [resultRegs] at hr
  · cases (exec_decOf s f).symm.trans h
    cases (exec_decOf s' f).symm.trans h'
    have hraw : s.rawIn = s'.rawIn := hops .rawIn (by simp)
    rw [hraw, decodeFmt_congr _ fun hf => hscale (usesScaleMode_decOf hf)]
    exact canOutRegs_finishCanon _ (by simpa using hr) s s'
  · cases (exec_encOf s f).symm.trans h
    cases (exec_encOf s' f).symm.trans h'
    obtain rfl : r = .rawOut := by simpa using hr
    show encodeFmt s.params f (canIn s) = encodeFmt s'.params f (canIn s')
    rw [encodeFmt_canIn_congr _ f hops, encodeFmt_congr _ fun hf => halpha (usesEncAlphaBits_encOf hf)]
  · cases (exec_conv s f g).symm.trans h
    cases (exec_conv s' f g).symm.trans h'
    obtain rfl : r = .rawOut := by simpa [resultRegs] using hr
    have hraw : s.rawIn = s'.rawIn := hops .rawIn (by simp [operandRegs])
    show convert s.params f g s.rawIn = convert s'.params f g s'.rawIn
    rw [hraw, convert_congr _ hagree]
  · cases (exec_zero s f).symm.trans h
    cases (exec_zero s' f).symm.trans h'
    rw [decodeFmt_zero s.params s'.params]
    obtain rfl | rfl | rfl : r = .rawOut ∨ r = .canOutRg ∨ r = .canOutBa := by
      simpa [resultRegs] using hr
    all_goals rfl
  · cases (exec_etc1 s lx ly).symm.trans h
    cases (exec_etc1 s' lx ly).symm.trans h'
    have hblk : blockIn s = blockIn s' :=
      congrArg₂ (fun hi lo : Word => hi ++ lo) (hops .blkIn1 (by simp [operandRegs]))
        (hops .blkIn0 (by simp [operandRegs]))
    rw [hblk, hmap ⟨lx, ly, rfl⟩]
    obtain rfl | rfl | rfl : r = .rgb8Out ∨ r = .canOutRg ∨ r = .canOutBa := by
      simpa [resultRegs] using hr
    all_goals rfl

/-- STATUS goes through a command untouched but for DONE (R26). -/
theorem exec_with_status {i : Instr} (h : exec i s = .next t) (st : Status) :
    exec i { s with status := st } = .next { t with status := { st with done := true } } := by
  obtain rfl | ⟨f, rfl⟩ | ⟨f, rfl⟩ | ⟨f, g, rfl⟩ | ⟨f, rfl⟩ | ⟨lx, ly, rfl⟩ := instr_cases i
  · cases h
    rfl
  · cases (exec_decOf s f).symm.trans h
    exact exec_decOf _ f
  · cases (exec_encOf s f).symm.trans h
    exact exec_encOf _ f
  · cases (exec_conv s f g).symm.trans h
    rfl
  · cases (exec_zero s f).symm.trans h
    rfl
  · cases (exec_etc1 s lx ly).symm.trans h
    rfl

/-! ### Repeated accesses -/

@[simp] theorem readReg_hostRead (u : Slot) (r : Reg) (s : State) :
    readReg r (hostRead u s) = readReg r s := by cases r <;> rfl

theorem Status.hostWrite_hostWrite (v : Word) (st : Status) :
    (st.hostWrite v).hostWrite v = st.hostWrite v := by
  cases hv : v[1]
  · rw [Status.hostWrite_of_clear st hv, Status.hostWrite_of_clear st hv]
  · rw [Status.hostWrite_of_set st hv, Status.hostWrite_of_set _ hv]

/-- Writing the same value again changes nothing (R56), whatever the queue. -/
theorem hostWrite_repeated (u : Slot) (v : Word) (es : List HostEvent) (s : State) :
    hostWrite u v ((hostWrite u v s).setPending es) = (hostWrite u v s).setPending es := by
  cases u with
  | reserved => rfl
  | reg r =>
    cases r
    case status =>
      show (s.setStatus ((s.status.hostWrite v).hostWrite v)).setPending es = _
      rw [Status.hostWrite_hostWrite]
      rfl
    all_goals rfl

/-- The operand registers of R21. -/
def Reg.operands : List Reg := [.rawIn, .canInRg, .canInBa, .blkIn0, .blkIn1]

theorem operandRegs_subset (i : Instr) : operandRegs i ⊆ Reg.operands := by
  cases i <;> simp [operandRegs, Reg.operands]

/-- No command writes an operand register (R33). -/
theorem not_written_of_mem_operands (i : Instr) :
    ∀ r ∈ Reg.operands, r ≠ .cmd ∧ r ≠ .status ∧ r ∉ resultRegs i := by
  cases i <;> simp [resultRegs, Reg.operands]

/-- Running a command again on the registers that it left gives the same registers: its operands are none
of its results, and DONE is set already. -/
theorem exec_repeated {i : Instr} {v : Word} {u : State} (h : exec i (s.setCmd v) = .next t)
    (h' : exec i ((t.setPending es).setCmd v) = .next u) (r : Reg) : readReg r u = readReg r t := by
  have hops : ∀ r ∈ operandRegs i, readReg r ((t.setPending es).setCmd v) = readReg r (s.setCmd v) := by
    intro r hr
    obtain ⟨hcmd, hst, hres⟩ := not_written_of_mem_operands i r (operandRegs_subset i hr)
    rw [readReg_setCmd _ hcmd, readReg_setPending, exec_keeps_readReg h hres hst]
  have hparams : t.params = s.params := by rw [exec_frame h]; rfl
  by_cases hres : r ∈ resultRegs i
  · exact exec_results_congr hops (by simp [agreeOnParamsOf, hparams]) h' h hres
  by_cases hst : r = .status
  · subst hst
    show u.status.word = t.status.word
    rw [exec_status h']
    show t.status.complete.word = t.status.word
    rw [exec_status h]
    rfl
  rw [exec_keeps_readReg h' hres hst]
  by_cases hcmd : r = .cmd
  · subst hcmd
    rw [exec_frame h]
    rfl
  · rw [readReg_setCmd _ hcmd, readReg_setPending]

/-- The registers after the same event again are those after the first (R56). -/
theorem step_repeated {e : HostEvent} (hp : s.pending = e :: e :: es) (h : step s = .next t) :
    ∃ u, step t = .next u ∧ ∀ r, readReg r u = readReg r t := by
  have ht : t.pending = e :: es := by rw [(step_frame h).1, hp, List.tail_cons]
  obtain ⟨hnil, -⟩ | ⟨e', es', hp', hcase⟩ := step_cases h
  · simp [hp] at hnil
  cases hp.symm.trans hp'
  obtain ⟨_, _, w, rfl, hw, -⟩ | ⟨_, _, v, w, rfl, hw, hcmd, rfl⟩ | ⟨v, i, rfl, hd, hx⟩ |
    ⟨v, c, rfl, hd, rfl⟩ | ⟨rfl, -⟩ := hcase
  · exact ⟨_, step_read ht hw, fun r => by rw [readReg_hostRead, readReg_setPending]⟩
  · refine ⟨_, step_write ht hw hcmd, fun r => ?_⟩
    rw [hostWrite_repeated, readReg_setPending]
  · obtain ⟨u, hu⟩ := exec_answers i ((t.setPending es).setCmd v)
    exact ⟨u, (step_command ht hd).trans hu, exec_repeated hx hu⟩
  · exact ⟨_, step_failedCommand ht hd, fun r => by cases r <;> rfl⟩
  · refine ⟨_, step_reset ht, fun r => ?_⟩
    cases (step_reset hp).symm.trans h
    rw [takeReset_readReg, takeReset_readReg]

/-- A read has no side effect on a register (R53). -/
theorem step_read_keeps_readReg {off size : Nat} (hp : s.pending = .read off size :: es)
    (h : step s = .next t) (r : Reg) : readReg r t = readReg r s := by
  cases hu : slotOf? off size with
  | none => cases (step_read_refused hp hu).symm.trans h
  | some u =>
    cases (step_read hp hu).symm.trans h
    rw [readReg_hostRead, readReg_setPending]

/-! ### Bus accesses -/

/-- An access that runs into the window from below is refused as soon as it is the oldest. -/
theorem step_issue_straddling (h : s.pending = []) :
    step (issue (some .straddlingAccess) s) = .refused .unsupportedAccess := by
  have hp : (issue (some .straddlingAccess) s).pending = [.straddlingAccess] := by simp [issue, h]
  exact step_event hp

end Sys2Proof.Machine
end

section
/-! The obligations on steps, host accesses and what a command depends on. -/

open Sys2Proof Sys2Proof.Machine Sys2Proof.Claims

namespace Sys2Proof.Proofs

/-- Settles O17: by induction on the number of steps, each of which answers and stays safe. -/
theorem supportedRunNeverStops : Obligations.SupportedRunNeverStops :=
  fun s k h => run_of_safe k s h

/-- Settles O15: the queue loses its head in every kind of step. -/
theorem eventsAreTakenInIssueOrder : Obligations.EventsAreTakenInIssueOrder :=
  fun _ _ h => (step_frame h).1

/-- Settles O16: no kind of step writes a parameter. -/
theorem stepKeepsTheParameters : Obligations.StepKeepsTheParameters :=
  fun _ _ h => (step_frame h).2

/-- Settles O26: a repeated command finds the same operands, and every other repeated access writes what
is there already. -/
theorem repeatedAccessChangesNoRegister : Obligations.RepeatedAccessChangesNoRegister := by
  intro s t e es hp h
  refine ⟨step_repeated hp h, ?read⟩
  case read =>
    rintro off size rfl
    exact step_read_keeps_readReg hp h

/-- Settles O27: the four places of an access, one window event each. -/
theorem busAddressReachesTheWindowOffset : Obligations.BusAddressReachesTheWindowOffset := by
  refine ⟨Nat.mul_mod_right 64 _, fun s base addr size v =>
    ⟨?unitBase, ?inside, ?straddling, ?below, ?above⟩⟩
  case unitBase =>
    rintro rfl
    exact ⟨rfl, rfl⟩
  case inside =>
    rintro off hoff rfl
    rw [busReadAt, busWriteAt, windowEvent_of_inside hoff, windowEvent_of_inside hoff]
    exact ⟨rfl, rfl⟩
  case straddling =>
    intro hlo hhi
    rw [busReadAt, busWriteAt, windowEvent_of_straddling hlo hhi, windowEvent_of_straddling hlo hhi]
    exact ⟨rfl, rfl, fun hp => ⟨step_issue_straddling hp, step_issue_straddling hp⟩⟩
  case below =>
    intro hlo hhi
    rw [busReadAt, busWriteAt, windowEvent_of_below hlo hhi, windowEvent_of_below hlo hhi]
    exact ⟨rfl, rfl⟩
  case above =>
    intro h
    rw [busReadAt, busWriteAt, windowEvent_of_above h, windowEvent_of_above h]
    exact ⟨rfl, rfl⟩

/-- Settles O29: kind by kind, STATUS is only completed. -/
theorem commandsDoNotReadStatus : Obligations.CommandsDoNotReadStatus :=
  fun _ _ _ st h => exec_with_status h st

/-- Settles O30: kind by kind, each result is a function of the named operands and parameters. -/
theorem resultsDependOnOperandsAlone : Obligations.ResultsDependOnOperandsAlone :=
  fun _ _ _ _ _ hops hparams h h' _ hr => exec_results_congr hops hparams h h' hr

/-- Settles O11: CMD holds the word from the write on, and the word is decoded. -/
theorem stepRunsTheDecodedCommand : Obligations.StepRunsTheDecodedCommand := by
  intro s es v i hp hd
  rw [step_command hp hd]
  rfl

/-- Settles O12: the placed event is the write of the instruction's own word to CMD. -/
theorem placedInstructionRunsNext : Obligations.PlacedInstructionRunsNext := by
  intro s i
  have hplaced : (s.withFetchWord 32 (encode i).toNat).pending =
      .write 0x00 4 (encode i) :: s.pending := by
    rw [State.withFetchWord, tableWord_toNat]
    rfl
  constructor
  · rw [step_command hplaced (decode_encode i)]
    rfl
  · rw [decodeTableWord, tableWord_toNat, decode_encode]

/-- Settles O14: the idle step is the identity. -/
theorem idleUnitHoldsItsRegisters : Obligations.IdleUnitHoldsItsRegisters :=
  fun _ h => step_idle h

/-- Settles O19: neither event has a meaning once it is the oldest. -/
theorem secondHostAndAccessDuringResetAreRefused :
    Obligations.SecondHostAndAccessDuringResetAreRefused :=
  fun _ _ => ⟨step_event, step_event⟩

/-- Settles O20: the sixteen values that the three fields of STATUS can take. -/
theorem statusReadsItsFields : Obligations.StatusReadsItsFields := by
  intro s
  show s.status.word.toNat = _
  obtain ⟨done, err, ecode⟩ := s.status
  cases done <;> cases err <;> rcases ecode with _ | _ | _ | _ <;> rfl

end Sys2Proof.Proofs
end

section
/-! SUPPORT. Packed pixels (40_packed_decode.md, 41_packed_encode.md): the channels of a decoded colour as
numbers, RGBA5551, and what encode gives back of a decoded field. -/

open Sys2Proof.Claims

namespace Sys2Proof.Machine

variable {s : State}

/-! ### The channels of a decoded colour -/

theorem decodeRgba5551_of_alpha_zero (m : ScaleMode) {raw : Word} (h : bits raw 0 0 = 0) :
    decodeRgba5551 m raw = Color.ofNats 0 0 0 0 := if_pos h

theorem decodeRgba5551_of_alpha_ne_zero (m : ScaleMode) {raw : Word} (h : bits raw 0 0 ≠ 0) :
    decodeRgba5551 m raw =
      Color.ofNats (scale m (bits raw 15 11) (fullScale 5)) (scale m (bits raw 10 6) (fullScale 5))
        (scale m (bits raw 5 1) (fullScale 5)) 0xFFFF := if_neg h

theorem encodeRgba5551_toNat (m : EncAlphaBits) (c : Color) :
    (encodeRgba5551 m c).toNat =
      c.r.toNat / 2 ^ 11 * 2 ^ 11 + c.g.toNat / 2 ^ 11 * 2 ^ 6 + c.b.toNat / 2 ^ 11 * 2 +
        alphaBits m c.a.toNat 1 := by
  rw [encodeRgba5551, BitVec.toNat_setWidth_of_le (by decide)]
  simp (disch := decide) only [append_toNat, topBits_toNat_of_le, alphaField_toNat]
  ring

/-! ### Fields that survive decode and encode -/

/-- A scaled 5-bit field is the high 5 bits of its channel (R100). -/
theorem scale_div_5 (m : ScaleMode) {f : Nat} (h : f < 2 ^ 5) :
    scale m f (fullScale 5) / 2 ^ 11 = f := by
  cases m <;> simp only [scale, fullScale] <;> omega

theorem scale_div_6 (m : ScaleMode) {f : Nat} (h : f < 2 ^ 6) :
    scale m f (fullScale 6) / 2 ^ 10 = f := by
  cases m <;> simp only [scale, fullScale] <;> omega

/-- A channel scaled from its own high bits is at most one quantization step away (R148). -/
theorem scale_sub_le_5 (m : ScaleMode) {x : Nat} (h : x < 2 ^ 16) :
    ((scale m (x / 2 ^ 11) (fullScale 5) : Int) - x).natAbs ≤ 0x0842 := by
  cases m <;> simp only [scale, fullScale] <;> omega

theorem scale_sub_le_6 (m : ScaleMode) {x : Nat} (h : x < 2 ^ 16) :
    ((scale m (x / 2 ^ 10) (fullScale 6) : Int) - x).natAbs ≤ 0x0410 := by
  cases m <;> simp only [scale, fullScale] <;> omega

/-- Un-premultiplication gives a nibble back under every nonzero alpha nibble. -/
theorem colourBits_premul4 {c a : Nat} (hc : c < 16) (ha : a < 16) (h0 : a ≠ 0) :
    colourBits (premul4 c a) (rep4 a) 4 = c := by
  have h : ∀ c < 16, ∀ a < 16, a ≠ 0 → colourBits (premul4 c a) (rep4 a) 4 = c := by decide
  exact h c hc a ha h0

theorem colourBits_full (c w : Nat) : colourBits c 0xFFFF w = c / 2 ^ (16 - w) := if_pos rfl

/-- At full alpha premultiplication only expands the byte. -/
theorem colourBits_premul8_full {c : Nat} (hc : c < 256) :
    colourBits (premul8 c 0xFF) (rep8 0xFF) 8 = c := by
  rw [show rep8 0xFF = 0xFFFF from rfl, colourBits_full, premul8, rep8]
  omega

theorem alphaBits_rep4 (m : EncAlphaBits) {a : Nat} (h : a < 16) : alphaBits m (rep4 a) 4 = a := by
  cases m <;> simp [alphaBits, rep4] <;> omega

theorem alphaBits_full (m : EncAlphaBits) {w : Nat} (h : w ∈ [1, 4, 8]) :
    alphaBits m 0xFFFF w = 2 ^ w - 1 := by
  simp only [List.mem_cons, List.not_mem_nil, or_false] at h
  obtain rfl | rfl | rfl := h <;> cases m <;> rfl

/-! ### The round trip of each format, as a number -/

theorem decodeRgb565_toNat (m : ScaleMode) (raw : Word) :
    (decodeRgb565 m raw).r.toNat = scale m (bits raw 15 11) (fullScale 5) ∧
    (decodeRgb565 m raw).g.toNat = scale m (bits raw 10 5) (fullScale 6) ∧
    (decodeRgb565 m raw).b.toNat = scale m (bits raw 4 0) (fullScale 5) :=
  ⟨ofNat16_toNat (scale_bits_le m raw 15 11), ofNat16_toNat (scale_bits_le m raw 10 5),
    ofNat16_toNat (scale_bits_le m raw 4 0)⟩

theorem encode_decode_rgb565 (m : ScaleMode) (raw : Word) :
    (encodeRgb565 (decodeRgb565 m raw)).toNat = raw.toNat % 2 ^ 16 := by
  obtain ⟨hr, hg, hb⟩ := decodeRgb565_toNat m raw
  rw [encodeRgb565_toNat, hr, hg, hb, scale_div_5 m (bits_lt raw 15 11),
    scale_div_6 m (bits_lt raw 10 5), scale_div_5 m (bits_lt raw 4 0), bits_eq, bits_eq, bits_eq]
  omega

theorem encode_decode_r8 (raw : Word) : (encodeR8 (decodeR8 raw)).toNat = raw.toNat % 2 ^ 8 := by
  have hr : (decodeR8 raw).r.toNat = rep8 (bits raw 7 0) :=
    ofNat16_toNat (rep8_le (bits_lt raw 7 0))
  have hraw : bits raw 7 0 = raw.toNat % 256 := by simp [bits_eq]
  rw [encodeR8_toNat, hr, hraw, rep8]
  omega

theorem encode_decode_rgba4444 (m : EncAlphaBits) (raw : Word) :
    (encodeRgba4444 m (decodeRgba4444 raw)).toNat =
      if bits raw 3 0 = 0 then 0 else raw.toNat % 2 ^ 16 := by
  have ha := rep4_le (bits_lt raw 3 0)
  have channel {c : Nat} (hc : c < 16) :
      (BitVec.ofNat 16 (premul4 c (bits raw 3 0))).toNat = premul4 c (bits raw 3 0) :=
    ofNat16_toNat ((premul4_le _ hc).trans ha)
  have hzero : rep4 (bits raw 3 0) = 0 ↔ bits raw 3 0 = 0 := by simp [rep4]
  rw [encodeRgba4444_toNat]
  simp only [decodeRgba4444, Color.ofNats, channel (bits_lt raw 15 12), channel (bits_lt raw 11 8),
    channel (bits_lt raw 7 4), ofNat16_toNat ha, hzero]
  refine if_ctx_congr Iff.rfl (fun _ => rfl) fun h0 => ?_
  rw [colourBits_premul4 (bits_lt raw 15 12) (bits_lt raw 3 0) h0,
    colourBits_premul4 (bits_lt raw 11 8) (bits_lt raw 3 0) h0,
    colourBits_premul4 (bits_lt raw 7 4) (bits_lt raw 3 0) h0, alphaBits_rep4 m (bits_lt raw 3 0)]
  simp only [bits_eq]
  omega

theorem encode_decode_rgba5551 (m : ScaleMode) (a : EncAlphaBits) (raw : Word) :
    (encodeRgba5551 a (decodeRgba5551 m raw)).toNat =
      if bits raw 0 0 = 0 then 0 else raw.toNat % 2 ^ 16 := by
  rw [encodeRgba5551_toNat]
  split
  case isTrue h =>
    rw [decodeRgba5551_of_alpha_zero m h]
    cases a <;> rfl
  case isFalse h =>
    rw [decodeRgba5551_of_alpha_ne_zero m h]
    simp only [Color.ofNats, ofNat16_toNat (scale_bits_le m raw 15 11),
      ofNat16_toNat (scale_bits_le m raw 10 6), ofNat16_toNat (scale_bits_le m raw 5 1),
      ofNat16_toNat le_rfl, scale_div_5 m (bits_lt raw 15 11), scale_div_5 m (bits_lt raw 10 6),
      scale_div_5 m (bits_lt raw 5 1), alphaBits_full a (show 1 ∈ [1, 4, 8] by decide)]
    rw [bits_eq] at h
    simp only [bits_eq]
    omega

/-- A premultiplied byte under full alpha, as a channel (R101). -/
theorem premul8_full_toNat {c : Nat} (hc : c < 256) :
    (BitVec.ofNat 16 (premul8 c 0xFF)).toNat = premul8 c 0xFF :=
  ofNat16_toNat ((premul8_le 0xFF hc).trans (rep8_le (by decide)))

theorem encode_decode_ga88_full (m : EncAlphaBits) {raw : Word} (h : bits raw 15 8 = 0xFF) :
    (encodeGa88 m (decodeGa88 raw)).toNat = raw.toNat % 2 ^ 16 := by
  rw [encodeGa88_toNat]
  simp only [decodeGa88, Color.ofNats, h, premul8_full_toNat (bits_lt raw 7 0),
    ofNat16_toNat (show rep8 0xFF ≤ 0xFFFF by decide), colourBits_premul8_full (bits_lt raw 7 0)]
  rw [bits_eq] at h ⊢
  rw [if_neg (by decide), show rep8 0xFF = 0xFFFF from rfl, alphaBits_full m (by decide)]
  omega

theorem encode_decode_bgra8888_full (m : EncAlphaBits) {raw : Word} (h : bits raw 31 24 = 0xFF) :
    encodeBgra8888 m (decodeBgra8888 raw) = raw := by
  apply BitVec.eq_of_toNat_eq
  rw [encodeBgra8888_toNat]
  simp only [decodeBgra8888, Color.ofNats, h, premul8_full_toNat (bits_lt raw 23 16),
    premul8_full_toNat (bits_lt raw 15 8), premul8_full_toNat (bits_lt raw 7 0),
    ofNat16_toNat (show rep8 0xFF ≤ 0xFFFF by decide), colourBits_premul8_full (bits_lt raw 23 16),
    colourBits_premul8_full (bits_lt raw 15 8), colourBits_premul8_full (bits_lt raw 7 0)]
  rw [if_neg (by decide), show rep8 0xFF = 0xFFFF from rfl, alphaBits_full m (by decide)]
  simp only [bits_eq] at h ⊢
  omega

/-- A round trip that gives 0 where the low `k` bits are 0, and the raw value elsewhere, fails exactly
where those bits are 0 with a colour above them. -/
theorem roundTrip_iff {n k raw : Nat} (h : n = if raw % 2 ^ k = 0 then 0 else raw % 2 ^ 16) :
    n = raw % 2 ^ 16 ↔ (raw % 2 ^ k ≠ 0 ∨ raw % 2 ^ 16 = 0) := by
  subst h
  split
  case isTrue h => simp [h, eq_comm]
  case isFalse h => simp [h]

/-! ### Loss and alpha -/

/-- The bits that RGB565 keeps of a colour (R136). -/
theorem bits_encodeRgb565 (c : Color) :
    bits (encodeRgb565 c) 15 11 = c.r.toNat / 2 ^ 11 ∧ bits (encodeRgb565 c) 10 5 = c.g.toNat / 2 ^ 10 ∧
      bits (encodeRgb565 c) 4 0 = c.b.toNat / 2 ^ 11 := by
  have hr := c.r.isLt
  have hg := c.g.isLt
  have hb := c.b.isLt
  simp only [bits_eq, encodeRgb565_toNat]
  omega

end Sys2Proof.Machine
end

section
/-! The obligations of 40_packed_decode.md and 41_packed_encode.md on RGBA5551, on round trips and on
alpha. -/

open Sys2Proof Sys2Proof.Machine Sys2Proof.Claims

namespace Sys2Proof.Proofs

/-- Settles O36: the alpha bit decides between the collapsed colour and the scaled, opaque one. -/
theorem decRgba5551Result : Obligations.DecRgba5551Result := by
  refine ⟨rfl, fun s => ⟨_, exec_decOf s .rgba5551, ?_⟩⟩
  simp (disch := decide) only [field_eq_bits, scaled_eq_scale]
  constructor
  · intro h
    rw [show decodeFmt s.params .rgba5551 s.rawIn = _ from decodeRgba5551_of_alpha_zero _ h]
    exact canonDone_finishCanon (Nat.zero_le _) le_rfl le_rfl le_rfl
  · intro h
    rw [show decodeFmt s.params .rgba5551 s.rawIn = _ from
      decodeRgba5551_of_alpha_ne_zero _ (by rw [h]; decide)]
    exact canonDone_finishCanon le_rfl (scale_bits_le _ s.rawIn 15 11) (scale_bits_le _ s.rawIn 10 6)
      (scale_bits_le _ s.rawIn 5 1)

/-- Settles O43: the word of RGBA5551 as a number, on the colour in CAN_IN. -/
theorem encRgba5551Result : Obligations.EncRgba5551Result := by
  refine ⟨rfl, fun s => ?_⟩
  simp only [inA_eq_canIn, inR_eq_canIn, inG_eq_canIn, inB_eq_canIn]
  exact exec_encOf_rawDone (f := .rgba5551) (encodeRgba5551_toNat _ _)

/-- Settles O47: a scaled field, and an expanded byte, keep the field in their high bits. -/
theorem roundTripOfRgb565AndR8IsExact : Obligations.RoundTripOfRgb565AndR8IsExact :=
  fun p raw => ⟨encode_decode_rgb565 p.scaleMode raw, encode_decode_r8 raw⟩

/-- Settles O48: under a nonzero alpha nibble each colour nibble comes back. -/
theorem roundTripOfRgba4444FailsOnlyAtAlphaZero :
    Obligations.RoundTripOfRgba4444FailsOnlyAtAlphaZero := by
  intro p raw
  have h := encode_decode_rgba4444 p.encAlphaBits raw
  rw [bits_eq, pow_zero, Nat.div_one] at h
  exact roundTrip_iff h

/-- Settles O49: with the alpha bit set each scaled field comes back. -/
theorem roundTripOfRgba5551FailsOnlyAtAlphaZero :
    Obligations.RoundTripOfRgba5551FailsOnlyAtAlphaZero := by
  intro p raw
  have h := encode_decode_rgba5551 p.scaleMode p.encAlphaBits raw
  rw [bits_eq, pow_zero, Nat.div_one] at h
  rw [← Nat.mod_two_ne_zero]
  exact roundTrip_iff (k := 1) h

/-- Settles O50: at full alpha premultiplication only expands the byte. -/
theorem roundTripAtFullAlphaIsExact : Obligations.RoundTripAtFullAlphaIsExact := by
  intro p raw
  simp (disch := decide) only [field_eq_bits]
  exact ⟨encode_decode_ga88_full _, encode_decode_bgra8888_full _⟩

/-- Settles O51: each channel is the scaled value of its own high bits. -/
theorem rgb565LosesAtMostOneStep : Obligations.Rgb565LosesAtMostOneStep := by
  intro p c
  obtain ⟨hr, hg, hb⟩ := decodeRgb565_toNat p.scaleMode (encodeRgb565 c)
  obtain ⟨hr', hg', hb'⟩ := bits_encodeRgb565 c
  rw [hr'] at hr
  rw [hg'] at hg
  rw [hb'] at hb
  simp only [decodeFmt, encodeFmt, hr, hg, hb]
  exact ⟨scale_sub_le_5 _ c.r.isLt, scale_sub_le_6 _ c.g.isLt, scale_sub_le_5 _ c.b.isLt⟩

/-- Settles O52: the three-way alpha branch at its ends, and the formats that do not branch on A. -/
theorem alphaCornerLaws : Obligations.AlphaCornerLaws := by
  refine fun p c => ⟨fun h => ?zero, fun h => ?full, fun a => ⟨rfl, rfl, ?rgba5551⟩⟩
  case zero => exact ⟨if_pos h, if_pos h, if_pos h⟩
  case full =>
    have ha : c.a.toNat = 0xFFFF := by rw [h]; rfl
    have hne : ¬ (0xFFFF : Nat) = 0 := by decide
    simp only [encodeFmt, encodeRgba4444_toNat, encodeBgra8888_toNat, encodeGa88_toNat, ha,
      if_neg hne, colourBits_full]
    rw [alphaBits_full _ (by decide), alphaBits_full _ (by decide)]
    exact ⟨rfl, rfl, rfl⟩
  case rgba5551 =>
    have hbit (m : EncAlphaBits) (a : Channel) : alphaBits m a.toNat 1 < 2 := by
      rw [← alphaField_toNat m a (by decide)]
      exact (alphaField m a 1).isLt
    have h := hbit p.encAlphaBits c.a
    have h' := hbit p.encAlphaBits a
    simp only [encodeFmt, encodeRgba5551_toNat]
    omega

end Sys2Proof.Proofs
end

section
/-! SUPPORT. The ETC1 block decompressor (42_etc1.md) in bit positions of the 64-bit block: bytes, sub-block,
selector, index, modifier and base colour, each as the obligation writes it. -/

open Sys2Proof.Claims

namespace Sys2Proof.Machine

variable {s : State}

/-! ### Bits of a block -/

theorem blockIn_toNat (s : State) : (blockIn s).toNat = blockNat s := append_toNat _ _

/-- Bits `hi` down to `lo` of byte `k` are those from `8k + lo` on of the block (R31). -/
theorem bits_blockByte (blk : Block) (k : Nat) {hi lo : Nat} (hlo : lo ≤ hi) (hhi : hi < 8) :
    bits (blockByte blk k) hi lo = blockBits blk.toNat (8 * k + lo) (hi - lo + 1) := by
  obtain ⟨c, hc⟩ : ∃ c, 8 = lo + (hi - lo + 1) + c := Nat.exists_eq_add_of_le (by omega)
  have hbyte : 256 = 2 ^ lo * (2 ^ (hi - lo + 1) * 2 ^ c) := by
    rw [← pow_add, ← pow_add, ← add_assoc, ← hc]
    rfl
  rw [bits_eq, blockByte_toNat, blockBits, pow_add 2 (8 * k) lo, ← Nat.div_div_eq_div_mul, hbyte,
    Nat.mod_mul_right_div_self, Nat.mod_mul_right_mod]

theorem getLsbD_blockByte (blk : Block) (k : Nat) {i : Nat} (hi : i < 8) :
    ((blockByte blk k).getLsbD i).toNat = blockBits blk.toNat (8 * k + i) 1 := by
  have h := bits_blockByte blk k (le_refl i) hi
  rw [bits_eq, Nat.sub_self] at h
  rw [← h, BitVec.getLsbD, Nat.testBit_eq_decide_div_mod_eq]
  rcases Nat.mod_two_eq_zero_or_one ((blockByte blk k).toNat / 2 ^ i) with hb | hb <;> simp [hb]

theorem diffBit_toNat (blk : Block) : (diffBit blk).toNat = blockBits blk.toNat 25 1 :=
  getLsbD_blockByte blk 3 (by decide)

theorem flipBit_toNat (blk : Block) : (flipBit blk).toNat = blockBits blk.toNat 24 1 :=
  getLsbD_blockByte blk 3 (by decide)

/-! ### Sub-block, selector, index and modifier -/

/-- The number of a sub-block, as the obligations write it (R16). -/
def SubBlock.index : SubBlock → Nat
  | .first => 0
  | .second => 1

theorem membership_index (blk : Block) (lx ly : BitVec 2) :
    (membership (flipBit blk) lx ly).index = subOf blk.toNat lx.toNat ly.toNat := by
  rw [subOf, ← flipBit_toNat]
  cases flipBit blk
  · by_cases h : lx.toNat < 2 <;> simp [membership, SubBlock.index, h]
  · by_cases h : ly.toNat < 2 <;> simp [membership, SubBlock.index, h]

theorem selector_toNat (blk : Block) (sub : SubBlock) :
    (selector blk sub).toNat = selectorOf blk.toNat sub.index := by
  cases sub
  case first => exact bits_blockByte blk 3 (hi := 7) (lo := 5) (by decide) (by decide)
  case second => exact bits_blockByte blk 3 (hi := 4) (lo := 2) (by decide) (by decide)

theorem rawIndex_toNat (blk : Block) (lx ly : BitVec 2) :
    (rawIndex blk lx ly).toNat = rawIndexOf blk.toNat lx.toNat ly.toNat := by
  have hlx := lx.isLt
  have hly := ly.isLt
  simp only [rawIndex, rawIndexOf, append_toNat, BitVec.toNat_ofBool]
  split
  case isTrue h =>
    rw [getLsbD_blockByte blk 4 (by omega), getLsbD_blockByte blk 6 (by omega), mul_comm]
    rfl
  case isFalse h =>
    rw [getLsbD_blockByte blk 5 (by omega), getLsbD_blockByte blk 7 (by omega), mul_comm]
    rfl

/-- REMAP and MOD together are the signed table (R178, R179). -/
theorem modifier_eq (cw : BitVec 3) (rawIdx : BitVec 2) :
    modifier cw (column rawIdx) = modifierOf cw.toNat rawIdx.toNat := by
  revert cw rawIdx
  decide

/-! ### Base colours and channels -/

theorem ext5_eq {v : Nat} (h : v < 32) : ext5 v = v * 8 + v / 4 := by
  have : ∀ v < 32, ext5 v = v * 8 + v / 4 := by decide
  exact this v h

theorem ext4_eq {v : Nat} (h : v < 16) : ext4 v = v * 17 := by
  have : ∀ v < 16, ext4 v = v * 17 := by decide
  exact this v h

theorem sum5_lt (b : Byte) : sum5 b < 32 := by
  have h := sum5_eq_emod b
  omega

/-- The signed delta modulo 32 adds 24 to a negative one's field (R177). -/
theorem sum5_eq (b : Byte) :
    sum5 b = (bits b 7 3 + bits b 2 0 + (if 4 ≤ bits b 2 0 then 24 else 0)) % 32 := by
  have h := sum5_eq_emod b
  rw [sext3_eq, show (b.extractLsb 2 0).toNat = bits b 2 0 from rfl] at h
  split at h <;> split <;> omega

/-- The base value that byte `k` gives a sub-block (R175 to R177). -/
def baseByte (blk : Block) (sub : SubBlock) (k : Nat) : Nat :=
  match diffBit blk, sub with
  | true, .first => ext5 (bits (blockByte blk k) 7 3)
  | true, .second => ext5 (sum5 (blockByte blk k))
  | false, .first => ext4 (bits (blockByte blk k) 7 4)
  | false, .second => ext4 (bits (blockByte blk k) 3 0)

theorem baseByte_eq (blk : Block) (sub : SubBlock) (k : Nat) :
    baseByte blk sub k = baseOf blk.toNat sub.index k := by
  have bits_eq_blockBits (hi lo : Nat) (h : lo ≤ hi ∧ hi < 8) :=
    bits_blockByte blk k h.1 h.2
  unfold baseByte baseOf
  rw [← diffBit_toNat]
  cases diffBit blk <;> cases sub
  · rw [ext4_eq (bits_lt _ 7 4), bits_eq_blockBits 7 4 (by decide)]
    rfl
  · rw [ext4_eq (bits_lt _ 3 0), bits_eq_blockBits 3 0 (by decide)]
    rfl
  · rw [ext5_eq (bits_lt _ 7 3), bits_eq_blockBits 7 3 (by decide)]
    rfl
  · rw [ext5_eq (sum5_lt _), sum5_eq, bits_eq_blockBits 7 3 (by decide),
      bits_eq_blockBits 2 0 (by decide)]
    rfl

theorem baseFirst_eq (blk : Block) :
    baseFirst blk = ⟨baseByte blk .first 0, baseByte blk .first 1, baseByte blk .first 2⟩ := by
  unfold baseFirst baseByte
  cases diffBit blk <;> rfl

/-- Under DOC the second sub-block of a differential block takes G and B from each other's byte (R176). -/
theorem baseSecond_eq (m : Etc1DiffMap) (blk : Block) :
    baseSecond m blk =
      ⟨baseByte blk .second (byteOf m blk.toNat 1 0), baseByte blk .second (byteOf m blk.toNat 1 1),
        baseByte blk .second (byteOf m blk.toNat 1 2)⟩ := by
  unfold baseSecond baseByte byteOf
  rw [← diffBit_toNat]
  cases diffBit blk <;> cases m <;> rfl

theorem mixChannel_eq (base : Nat) (d : Int) : mixChannel base d = mixed base d := by
  rw [mixChannel, mixed, clamp]
  split
  · omega
  · split <;> omega

theorem mixed_lt (base : Nat) (d : Int) : mixed base d < 256 := by
  rw [mixed]
  omega

/-- The first sub-block's channels come each from its own byte (R175). -/
theorem byteOf_zero (m : Etc1DiffMap) (B ch : Nat) : byteOf m B 0 ch = ch := if_neg (by simp)

/-- The decoded pixel in bit positions of the block (R184). -/
theorem decodeEtc1_eq (m : Etc1DiffMap) (blk : Block) (lx ly : BitVec 2) :
    decodeEtc1 m blk lx ly =
      ⟨channelOf m blk.toNat lx.toNat ly.toNat 0, channelOf m blk.toNat lx.toNat ly.toNat 1,
        channelOf m blk.toNat lx.toNat ly.toNat 2⟩ := by
  simp only [decodeEtc1, channelOf, modifier_eq, selector_toNat, rawIndex_toNat, mixChannel_eq,
    ← membership_index]
  cases membership (flipBit blk) lx ly
  case first => simp only [baseFirst_eq, baseByte_eq, SubBlock.index, byteOf_zero]
  case second => simp only [baseSecond_eq, baseByte_eq, SubBlock.index]

theorem decodeEtc1_blockIn (s : State) (lx ly : BitVec 2) :
    decodeEtc1 s.params.etc1DiffMap (blockIn s) lx ly =
      ⟨pixelChannel s lx ly 0, pixelChannel s lx ly 1, pixelChannel s lx ly 2⟩ := by
  rw [decodeEtc1_eq, blockIn_toNat]
  rfl

theorem pixelChannel_lt (s : State) (lx ly : BitVec 2) (ch : Nat) : pixelChannel s lx ly ch < 256 :=
  mixed_lt _ _

theorem Rgb.packed_toNat {r g b : Nat} (hr : r < 256) (hg : g < 256) (hb : b < 256) :
    (Rgb.packed ⟨r, g, b⟩).toNat = 0xFF * 2 ^ 24 + b * 2 ^ 16 + g * 2 ^ 8 + r := by
  simp only [Rgb.packed, append_toNat, BitVec.toNat_ofNat, Nat.mod_eq_of_lt hr, Nat.mod_eq_of_lt hg,
    Nat.mod_eq_of_lt hb, show (0xFF : Byte).toNat = 0xFF from rfl]
  omega

theorem decode_etc1Word (lx ly : BitVec 2) :
    decode (BitVec.ofNat 32 (0x5 + lx.toNat * 2 ^ 12 + ly.toNat * 2 ^ 14)) = .ok (.etc1 lx ly) := by
  revert lx ly
  decide

end Sys2Proof.Machine
end

section
/-! The obligation of 42_etc1.md on the decoded pixel. -/

open Sys2Proof Sys2Proof.Machine Sys2Proof.Claims

namespace Sys2Proof.Proofs

/-- Settles O53: the pixel's channels by bit positions, laid out in RGB8_OUT and, expanded, in CAN_OUT. -/
theorem etc1PixelResult : Obligations.Etc1PixelResult := by
  refine fun lx ly s => ⟨decode_etc1Word lx ly, _, exec_etc1 s lx ly, rfl, ?rgb8, ?canOut⟩
  all_goals
    have hlt := pixelChannel_lt s lx ly
    rw [decodeEtc1_blockIn]
  case rgb8 => exact Rgb.packed_toNat (hlt 0) (hlt 1) (hlt 2)
  case canOut =>
    exact (canonDone_finishCanon le_rfl (rep8_le (hlt 0)) (rep8_le (hlt 1)) (rep8_le (hlt 2))).2

end Sys2Proof.Proofs
end

section
/-! SUPPORT. Operands from host memory (20_memory.md): stored bytes in RAW_IN and BLK_IN, the place of a
pixel in its Rectangle, and the bytes of a planar pixel and of a block. -/

open Sys2Proof.Claims

namespace Sys2Proof.Machine

/-! ### Stored bytes -/

theorem field_byte (v : Word) (k : Nat) :
    field v (8 * k + 7) (8 * k) = v.toNat / 2 ^ (8 * k) % 256 := by
  rw [field, show 8 * k + 7 + 1 - 8 * k = 8 by omega]
  rfl

theorem field_rawOfBytes {bytes : List Byte} (hlen : bytes.length ≤ 4) {k : Nat}
    (hk : k < bytes.length) : field (rawOfBytes bytes) (8 * k + 7) (8 * k) = bytes[k].toNat := by
  rw [field_byte, rawOfBytes, ofNat_littleEndian hlen, littleEndian_byte]

theorem rawByte_rawOfBytes {bytes : List Byte} (hlen : bytes.length ≤ 4) {k : Nat}
    (hk : k < bytes.length) : rawByte (rawOfBytes bytes) k = bytes[k] := by
  rw [rawByte, field_rawOfBytes hlen hk, BitVec.ofNat_toNat, BitVec.setWidth_eq]

theorem littleEndian_append (xs ys : List Byte) :
    littleEndian (xs ++ ys) = littleEndian xs + 256 ^ xs.length * littleEndian ys := by
  induction xs with
  | nil => simp [littleEndian]
  | cons b bs ih =>
    simp only [List.cons_append, littleEndian, ih, List.length_cons]
    ring

/-- The two BLK_IN registers hold the eight bytes as one little-endian number (R31, R58). -/
theorem blkInOfBytes_toNat {bytes : List Byte} (h : bytes.length = 8) :
    ((blkInOfBytes bytes).2 ++ (blkInOfBytes bytes).1).toNat = littleEndian bytes := by
  have hlo : (bytes.take 4).length = 4 := by simp [h]
  have hhi : (bytes.drop 4).length = 4 := by simp [h]
  have hbytes := littleEndian_append (bytes.take 4) (bytes.drop 4)
  rw [List.take_append_drop, hlo] at hbytes
  rw [append_toNat, blkInOfBytes, ofNat_littleEndian hlo.le, ofNat_littleEndian hhi.le, hbytes]
  ring

theorem blockByte_blkInOfBytes (s : State) {bytes : List Byte} (h : bytes.length = 8) {k : Nat}
    (hk : k < bytes.length) :
    blockByte (blockIn { s with blkIn0 := (blkInOfBytes bytes).1, blkIn1 := (blkInOfBytes bytes).2 }) k
      = bytes[k] := by
  apply BitVec.eq_of_toNat_eq
  rw [blockByte_toNat, blockIn, blkInOfBytes_toNat h, littleEndian_byte]

/-! ### The Rectangle -/

theorem contains_iff (e : MaxEdge) (r : Rectangle) (x y : Int) :
    r.contains e x y = true ↔
      r.minX ≤ x ∧ x < r.minX + extent e r.minX r.maxX ∧
        r.minY ≤ y ∧ y < r.minY + extent e r.minY r.maxY := by
  simp [Rectangle.contains, and_assoc]

/-- A pixel inside lies at its distance from the min corner, inside the width and the height. -/
theorem distance_of_contains {e : MaxEdge} {r : Rectangle} {x y : Int}
    (h : r.contains e x y = true) :
    ((x - r.minX).toNat : Int) = x - r.minX ∧ ((y - r.minY).toNat : Int) = y - r.minY ∧
      (x - r.minX).toNat < (r.size e).1 ∧ (y - r.minY).toNat < (r.size e).2 := by
  obtain ⟨hx, hx', hy, hy'⟩ := (contains_iff e r x y).1 h
  simp only [Rectangle.size]
  omega

theorem contains_outside_iff {r : Rectangle} (h : r.wf = true) (x y : Int) :
    r.contains .outside x y = true ↔ r.minX ≤ x ∧ x < r.maxX ∧ r.minY ≤ y ∧ y < r.maxY := by
  obtain ⟨hx, hy⟩ : r.minX ≤ r.maxX ∧ r.minY ≤ r.maxY := by simpa [Rectangle.wf] using h
  simp only [contains_iff, extent]
  omega

theorem contains_inside_iff {r : Rectangle} (h : r.wf = true) (x y : Int) :
    r.contains .inside x y = true ↔ r.minX ≤ x ∧ x ≤ r.maxX ∧ r.minY ≤ y ∧ y ≤ r.maxY := by
  obtain ⟨hx, hy⟩ : r.minX ≤ r.maxX ∧ r.minY ≤ r.maxY := by simpa [Rectangle.wf] using h
  simp only [contains_iff, extent]
  omega

/-! ### Pixels of a planar image -/

variable {e : MaxEdge} {im : PlanarImage} {x y : Int}

theorem raw?_of_not_contains (h : im.rect.contains e x y = false) : im.raw? e x y = none := by
  simp [PlanarImage.raw?, h]

theorem setRaw_of_not_contains (raw : Word) (h : im.rect.contains e x y = false) :
    im.setRaw e x y raw = im := by
  simp [PlanarImage.setRaw, h]

theorem pixelAt_of_raw? {raw : Word} (p : Params) (h : im.raw? e x y = some raw) :
    im.pixelAt p e x y = decodeFmt p im.fmt raw := by
  rw [PlanarImage.pixelAt, h]

theorem pixelAt_of_not_contains (p : Params) (h : im.rect.contains e x y = false) :
    im.pixelAt p e x y = decodeFmt p im.fmt 0 := by
  rw [PlanarImage.pixelAt, raw?_of_not_contains h]

theorem pixelBytes_eq (f : Fmt) : pixelBytes f = f.bytesPerPixel := by cases f <;> rfl

theorem bytesPerPixel_le (f : Fmt) : f.bytesPerPixel ≤ 4 := by cases f <;> decide

/-- The offset of a pixel inside, by its distance from the min corner (R60). -/
theorem pixelOffset_of_contains (h : im.rect.contains e x y = true) :
    im.pixelOffset x y =
      ((y - im.rect.minY).toNat * im.stride + (x - im.rect.minX).toNat * im.fmt.bytesPerPixel : Nat) := by
  obtain ⟨hx, hy, -, -⟩ := distance_of_contains h
  rw [PlanarImage.pixelOffset]
  push_cast
  rw [hx, hy]

/-- Where a row fits the stride, a pixel inside lies whole in a buffer of stride times height bytes. -/
theorem pixel_lies_in_buffer (h : im.rect.contains e x y = true) (hwf : im.wf e = true)
    (hrow : (im.rect.size e).1 * im.fmt.bytesPerPixel ≤ im.stride) :
    (im.pixelOffset x y).toNat + im.fmt.bytesPerPixel ≤ im.buffer.length := by
  obtain ⟨-, -, hpx, hpy⟩ := distance_of_contains h
  obtain ⟨-, hbuf⟩ : im.rect.wf = true ∧ im.stride * (im.rect.size e).2 ≤ im.buffer.length := by
    simpa [PlanarImage.wf] using hwf
  rw [pixelOffset_of_contains h, Int.toNat_natCast]
  generalize (y - im.rect.minY).toNat = py at *
  generalize (x - im.rect.minX).toNat = px at *
  calc py * im.stride + px * im.fmt.bytesPerPixel + im.fmt.bytesPerPixel
      = py * im.stride + (px + 1) * im.fmt.bytesPerPixel := by ring
    _ ≤ py * im.stride + (im.rect.size e).1 * im.fmt.bytesPerPixel := by gcongr; exact hpx
    _ ≤ py * im.stride + im.stride := by gcongr
    _ = im.stride * (py + 1) := by ring
    _ ≤ im.stride * (im.rect.size e).2 := by gcongr; exact hpy
    _ ≤ im.buffer.length := hbuf

/-- `n` stored bytes from `off` on. -/
theorem getElem?_stored {l : List Byte} {off n k : Nat} (hlen : off + n ≤ l.length) (hk : k < n) :
    ∃ h : k < ((l.drop off).take n).length, l[off + k]? = some ((l.drop off).take n)[k] := by
  have h : k < ((l.drop off).take n).length := by
    rw [List.length_take, List.length_drop]
    omega
  refine ⟨h, ?_⟩
  rw [List.getElem_take, List.getElem_drop, List.getElem?_eq_getElem (by omega)]

theorem rawOfBytes_lt {bytes : List Byte} {n : Nat} (h : bytes.length = n) (hn : n ≤ 4) :
    (rawOfBytes bytes).toNat < 2 ^ (8 * n) := by
  subst h
  rw [rawOfBytes, ofNat_littleEndian hn, pow_mul]
  exact littleEndian_lt bytes

/-- Byte `k` of the stored bytes of a raw value (R57). -/
theorem getElem?_bytesOfRaw (f : Fmt) (raw : Word) {k : Nat} (hk : k < f.bytesPerPixel) :
    (bytesOfRaw f raw)[k]? = some (rawByte raw k) := by
  have hbyte : raw.extractLsb' (8 * k) 8 = rawByte raw k := by
    apply BitVec.eq_of_toNat_eq
    rw [rawByte, field_byte, BitVec.extractLsb'_toNat, BitVec.toNat_ofNat, Nat.shiftRight_eq_div_pow]
    omega
  simp [bytesOfRaw, hk, hbyte]

/-! ### Bytes written into a buffer -/

section
variable {α : Type} {l m : List α} {off n : Nat}

theorem length_overwrite (h : off + m.length ≤ l.length) :
    (l.take off ++ m ++ l.drop (off + m.length)).length = l.length := by
  simp only [List.length_append, List.length_take, List.length_drop]
  omega

theorem getElem?_overwrite_inside (h : off + m.length ≤ l.length) (hn : n < m.length) :
    (l.take off ++ m ++ l.drop (off + m.length))[off + n]? = m[n]? := by
  have hoff : (l.take off).length = off := List.length_take_of_le (by omega)
  rw [List.getElem?_append_left (by rw [List.length_append, hoff]; omega),
    List.getElem?_append_right (by omega), hoff, Nat.add_sub_cancel_left]

theorem getElem?_overwrite_outside (h : off + m.length ≤ l.length)
    (hn : n < off ∨ off + m.length ≤ n) :
    (l.take off ++ m ++ l.drop (off + m.length))[n]? = l[n]? := by
  have hoff : (l.take off).length = off := List.length_take_of_le (by omega)
  obtain hlo | hhi := hn
  · rw [List.append_assoc, List.getElem?_append_left (by omega), List.getElem?_take_of_lt hlo]
  · rw [List.getElem?_append_right (by rw [List.length_append, hoff]; exact hhi), List.length_append,
      hoff, List.getElem?_drop, Nat.add_sub_cancel' hhi]

end

/-! ### Blocks -/

theorem mem_grid {width x : Nat} (h : x < width) : x / 4 < blocksFor width := by
  have := (blocksFor_bounds width).1
  omega

/-- The block of a pixel inside lies whole in the payload (R61, R64). -/
theorem blockOffset_lt {width height x y : Nat} (hx : x < width) (hy : y < height) :
    blockOffset width x y + 8 ≤ blockPayload width height := by
  have hcol : x / 4 + 1 ≤ blocksFor width := mem_grid hx
  have hrow : y / 4 + 1 ≤ blocksFor height := mem_grid hy
  calc blockOffset width x y + 8 = (y / 4 * blocksFor width + (x / 4 + 1)) * 8 := by
        rw [blockOffset]; ring
    _ ≤ (y / 4 * blocksFor width + blocksFor width) * 8 := by gcongr
    _ = blocksFor width * (y / 4 + 1) * 8 := by ring
    _ ≤ blocksFor width * blocksFor height * 8 := by gcongr

/-- Row and column are the quotient and the remainder of a row-major place by the row's length. -/
theorem rowMajor_inj {w row col row' col' : Nat} (hcol : col < w) (hcol' : col' < w)
    (h : row' * w + col' = row * w + col) : row' = row ∧ col' = col := by
  have hw : 0 < w := by omega
  obtain ⟨hdiv, hmod⟩ := (Nat.div_mod_unique hw).2 ⟨(by ring : col + w * row = row * w + col), hcol⟩
  obtain ⟨hdiv', hmod'⟩ :=
    (Nat.div_mod_unique hw).2 ⟨(by ring : col' + w * row' = row' * w + col'), hcol'⟩
  rw [h] at hdiv' hmod'
  exact ⟨hdiv'.symm.trans hdiv, hmod'.symm.trans hmod⟩

theorem localCoords_toNat (x y : Nat) :
    (localCoords x y).1.toNat = x % 4 ∧ (localCoords x y).2.toNat = y % 4 := by
  simp [localCoords]

/-- No two pixels of an image share a block and local coordinates (R61). -/
theorem blockPlace_inj {width x y x' y' : Nat} (hx : x < width) (hx' : x' < width)
    (hoff : blockOffset width x' y' = blockOffset width x y)
    (hloc : localCoords x' y' = localCoords x y) : x' = x ∧ y' = y := by
  obtain ⟨hlx, hly⟩ := localCoords_toNat x y
  obtain ⟨hlx', hly'⟩ := localCoords_toNat x' y'
  rw [hloc] at hlx' hly'
  obtain ⟨hrow, hcol⟩ := rowMajor_inj (mem_grid hx) (mem_grid hx') (Nat.mul_right_cancel (by decide) hoff)
  omega

/-- Byte `k` of a pixel's block is that of the registers it is loaded into (R31, R58). -/
theorem getElem?_blockOperands (s : State) {payload : List Byte} {width height x y k : Nat}
    (hx : x < width) (hy : y < height) (hlen : payload.length = blockPayload width height)
    (hk : k < 8) :
    payload[blockOffset width x y + k]? = some (blockByte (blockIn { s with
      blkIn0 := (blockOperands payload width x y).1
      blkIn1 := (blockOperands payload width x y).2 }) k) := by
  have hfit : blockOffset width x y + 8 ≤ payload.length := hlen ▸ blockOffset_lt hx hy
  have hbytes : ((payload.drop (blockOffset width x y)).take 8).length = 8 := by
    rw [List.length_take, List.length_drop]
    omega
  obtain ⟨hk', hget⟩ := getElem?_stored hfit hk
  rw [hget, blockOperands, blockByte_blkInOfBytes s hbytes hk']

variable {b : BlockImage}

theorem operands?_of_not_contains (h : b.rect.contains e x y = false) :
    b.operands? e x y = none := by
  simp [BlockImage.operands?, h]

theorem blockPixelAt_of_not_contains (m : Etc1DiffMap) (h : b.rect.contains e x y = false) :
    ((b.pixelAt m e x y).r, (b.pixelAt m e x y).g, (b.pixelAt m e x y).b, (b.pixelAt m e x y).a) =
      Config.blockZeroColour := by
  rw [BlockImage.pixelAt, operands?_of_not_contains h]

theorem blockPixelAt_of_operands? (m : Etc1DiffMap) {w0 w1 : Word} {lx ly : BitVec 2}
    (h : b.operands? e x y = some ((w0, w1), (lx, ly))) :
    b.pixelAt m e x y = (decodeEtc1 m (w1 ++ w0) lx ly).canonical := by
  rw [BlockImage.pixelAt, h]

end Sys2Proof.Machine
end

section
/-! The obligations of 20_memory.md on stored bytes, image layouts and pixels. -/

open Sys2Proof Sys2Proof.Machine Sys2Proof.Claims

namespace Sys2Proof.Proofs

/-- Settles O55: the registers hold the stored bytes as little-endian numbers. -/
theorem storedBytesLieLittleEndian : Obligations.StoredBytesLieLittleEndian :=
  ⟨fun _ _ hk hlen => field_rawOfBytes hlen hk,
    fun s _ _ hk hlen => blockByte_blkInOfBytes s hlen hk⟩

/-- Settles O56: outside the Rectangle there is no raw value and there are no operands, and a query
answers the colour of raw 0 or the codec's. -/
theorem pixelOutsideTheImageTouchesNothing : Obligations.PixelOutsideTheImageTouchesNothing := by
  refine ⟨fun r x y hwf => ⟨contains_outside_iff hwf x y, contains_inside_iff hwf x y⟩,
    fun e im x y raw h => ⟨raw?_of_not_contains h, setRaw_of_not_contains raw h, fun s => ?planar⟩,
    fun m e im x y h => ⟨operands?_of_not_contains h, blockPixelAt_of_not_contains m h⟩,
    rfl, rfl, rfl, rfl⟩
  case planar =>
    refine ⟨_, exec_zero s im.fmt, ?_⟩
    rw [canOut_finishCanon, pixelAt_of_not_contains _ h]

/-- Settles O57: the grid covers the image, and a pixel's block and coordinates are the quotients and
remainders of its place. -/
theorem blockLayoutOfEveryPixel : Obligations.BlockLayoutOfEveryPixel := by
  intro width height
  refine ⟨blocksFor_bounds width, blocksFor_bounds height, rfl, fun x y hx hy => ?pixel⟩
  obtain ⟨hlx, hly⟩ := localCoords_toNat x y
  exact ⟨rfl, blockOffset_lt hx hy, hlx, hly, fun x' y' hx' _ => blockPlace_inj hx hx',
    fun s payload k hlen hk => getElem?_blockOperands s hx hy hlen hk⟩

/-- Settles O58: the offset is linear in the distance from the min corner, and the raw value is the
little-endian number of the bytes there. -/
theorem planarPixelLiesAtItsOffset : Obligations.PlanarPixelLiesAtItsOffset := by
  refine ⟨fun e r f => ⟨?length, fun b => List.eq_of_mem_replicate⟩, fun e im x y h => ?pixel⟩
  case length => rw [pixelBytes_eq]; exact List.length_replicate
  rw [pixelBytes_eq]
  refine ⟨?offset, pixel_lies_in_buffer h, fun hfit => ?bytes⟩
  case offset =>
    rw [Int.toNat_of_nonneg (by rw [pixelOffset_of_contains h]; exact Int.natCast_nonneg _)]
    rfl
  case bytes =>
    have hlen : ((im.buffer.drop (im.pixelOffset x y).toNat).take im.fmt.bytesPerPixel).length =
        im.fmt.bytesPerPixel := by
      rw [List.length_take, List.length_drop]
      omega
    have hle := bytesPerPixel_le im.fmt
    refine ⟨_, raw?_of_contains h, rawOfBytes_lt hlen hle, fun k hk => ?_⟩
    obtain ⟨hk', hget⟩ := getElem?_stored hfit hk
    rw [hget, rawByte_rawOfBytes (hlen.trans_le hle) hk']

/-- Settles O59: the new buffer is the old one with the pixel's bytes written over it. -/
theorem setPixelStoresItsBytesAlone : Obligations.SetPixelStoresItsBytesAlone := by
  intro e im x y raw h
  simp only [pixelBytes_eq]
  rw [setRaw_of_contains raw h, ← length_bytesOfRaw im.fmt raw]
  intro hfit
  refine ⟨rfl, length_overwrite hfit, fun k hk => ?inside, fun n hn => getElem?_overwrite_outside hfit hn⟩
  case inside =>
    rw [getElem?_overwrite_inside hfit hk, getElem?_bytesOfRaw im.fmt raw (by simpa using hk)]

/-- Settles O60: the query decodes what the command reads from the loaded registers. -/
theorem pixelInsideTheImageIsWhatTheCommandWrites :
    Obligations.PixelInsideTheImageIsWhatTheCommandWrites := by
  refine ⟨fun e im x y s h => ?planar, fun e im x y s h => ?block⟩
  case planar =>
    have hraw := raw?_of_contains h
    refine ⟨_, _, hraw, exec_decOf _ im.fmt, ?_⟩
    rw [canOut_finishCanon, pixelAt_of_raw? _ hraw]
  case block =>
    obtain ⟨hpx, hpy, hw, hh⟩ := distance_of_contains h
    have hops := operands?_of_contains h
    refine ⟨_, _, _, _, _, _, _, hpx, hpy, hw, hh, rfl, rfl, hops, exec_etc1 _ _ _, ?_⟩
    rw [canOut_finishCanon, blockPixelAt_of_operands? _ hops]
    rfl

end Sys2Proof.Proofs
end
